-- ==== Sys2Proof/Word.lean ====
section
/-! DEFINITION. The word types of the V850E2S (00_scope.md R9) and the number types of its operand fields. -/

namespace Sys2Proof

/-- A byte, 8 bits (R9). -/
abbrev Byte := BitVec 8

/-- A halfword, 16 bits (R9). -/
abbrev Half := BitVec 16

/-- A word, 32 bits (R9): general registers, system registers, addresses. -/
abbrev Word := BitVec 32

/-- A doubleword, 64 bits: the products of MUL and MULU, the sums of MAC and MACU (R260, R270). -/
abbrev DWord := BitVec 64

/-- A general register number, 0-31 (R20, R171). -/
abbrev Reg := BitVec 5

/-- The number of an even register pair, as MAC and MACU encode it: pair p is registers 2p and 2p + 1 (R187, R270). -/
abbrev RegPair := BitVec 4

/-- The register list of PREPARE and DISPOSE as the opcode carries it: bits 11-1 are list12 bits 31-21, bit 0 is
list12 bit 0 (R452). -/
abbrev RegList := BitVec 12

/-- A system register number, 0-31 (R26). -/
abbrev RegId := BitVec 5

end Sys2Proof
end

