-- ==== Sys2Proof/Syntax.lean ====
section
/-! DEFINITION. The instructions of the V850E2S: one constructor for each of the 137 encodings of 30_encoding.md R199,
with the operand bits that the encoding carries (R187), in the order of the assembly forms (R197). -/

namespace Sys2Proof

/-- The sixteen condition codes cccc of 00_scope.md R13, in the order of the codes 0000 to 1111. -/
inductive Cond where
  /-- 0000 V: OV = 1. -/
  | v
  /-- 0001 C/L: CY = 1. -/
  | c
  /-- 0010 Z: Z = 1. -/
  | z
  /-- 0011 NH: (CY or Z) = 1. -/
  | nh
  /-- 0100 S/N: S = 1. -/
  | n
  /-- 0101 T: always. -/
  | t
  /-- 0110 LT: (S xor OV) = 1. -/
  | lt
  /-- 0111 LE: ((S xor OV) or Z) = 1. -/
  | le
  /-- 1000 NV: OV = 0. -/
  | nv
  /-- 1001 NC/NL: CY = 0. -/
  | nc
  /-- 1010 NZ: Z = 0. -/
  | nz
  /-- 1011 H: (CY or Z) = 0. -/
  | h
  /-- 1100 NS/P: S = 0. -/
  | p
  /-- 1101 SA: SAT = 1. -/
  | sa
  /-- 1110 GE: (S xor OV) = 0. -/
  | ge
  /-- 1111 GT: ((S xor OV) or Z) = 0. -/
  | gt
  deriving DecidableEq, Repr

/-- The instructions. A displacement or immediate operand holds exactly the bits the opcode carries; the fixed low zero
bits of a displacement are not stored (R187): `disp15` is disp16 bits 15-1, `disp21` disp22 bits 21-1, `disp22h` disp23
bits 22-1, `disp31` disp32 bits 31-1, `disp8` of Bcond disp9 bits 8-1. Which register values an encoding excludes is said
by `Instr.WellFormed`. -/
inductive Instr where
  -- Format I and the 16-bit control instructions
  /-- NOP (R464). -/
  | nop
  /-- SYNCE (R470). -/
  | synce
  /-- SYNCM (R471). -/
  | syncm
  /-- SYNCP (R472). -/
  | syncp
  /-- MOV reg1, reg2 (R284). -/
  | mov (reg1 reg2 : Reg)
  /-- NOT reg1, reg2 (R332). -/
  | not (reg1 reg2 : Reg)
  /-- RIE, 16-bit form (R467). -/
  | rie
  /-- SWITCH reg1 (R469). -/
  | switch (reg1 : Reg)
  /-- FETRAP vector4 (R461). -/
  | fetrap (vector4 : BitVec 4)
  /-- DIVH reg1, reg2 (R391). -/
  | divh (reg1 reg2 : Reg)
  /-- JMP [reg1] (R413). -/
  | jmp (reg1 : Reg)
  /-- SLD.BU disp4 [ep], reg2 (R231). -/
  | sldBu (disp4 : BitVec 4) (reg2 : Reg)
  /-- SLD.HU disp5 [ep], reg2: disp5 bits 4-1 (R233). -/
  | sldHu (disp4 : BitVec 4) (reg2 : Reg)
  /-- ZXB reg1 (R363). -/
  | zxb (reg1 : Reg)
  /-- SXB reg1 (R361). -/
  | sxb (reg1 : Reg)
  /-- ZXH reg1 (R364). -/
  | zxh (reg1 : Reg)
  /-- SXH reg1 (R362). -/
  | sxh (reg1 : Reg)
  /-- SATSUBR reg1, reg2 (R317). -/
  | satsubr (reg1 reg2 : Reg)
  /-- SATSUB reg1, reg2 (R314). -/
  | satsub (reg1 reg2 : Reg)
  /-- SATADD reg1, reg2 (R311). -/
  | satadd (reg1 reg2 : Reg)
  /-- MULH reg1, reg2 (R263). -/
  | mulh (reg1 reg2 : Reg)
  /-- OR reg1, reg2 (R333). -/
  | or (reg1 reg2 : Reg)
  /-- XOR reg1, reg2 (R336). -/
  | xor (reg1 reg2 : Reg)
  /-- AND reg1, reg2 (R330). -/
  | and (reg1 reg2 : Reg)
  /-- TST reg1, reg2 (R335). -/
  | tst (reg1 reg2 : Reg)
  /-- SUBR reg1, reg2 (R290). -/
  | subr (reg1 reg2 : Reg)
  /-- SUB reg1, reg2 (R289). -/
  | sub (reg1 reg2 : Reg)
  /-- ADD reg1, reg2 (R280). -/
  | add (reg1 reg2 : Reg)
  /-- CMP reg1, reg2 (R283). -/
  | cmp (reg1 reg2 : Reg)
  -- Format II
  /-- MOV imm5, reg2 (R285). -/
  | movImm5 (imm5 : BitVec 5) (reg2 : Reg)
  /-- SATADD imm5, reg2 (R312). -/
  | sataddImm5 (imm5 : BitVec 5) (reg2 : Reg)
  /-- ADD imm5, reg2 (R281). -/
  | addImm5 (imm5 : BitVec 5) (reg2 : Reg)
  /-- CMP imm5, reg2 (R283). -/
  | cmpImm5 (imm5 : BitVec 5) (reg2 : Reg)
  /-- CALLT imm6 (R453). -/
  | callt (imm6 : BitVec 6)
  /-- SHR imm5, reg2 (R360). -/
  | shrImm5 (imm5 : BitVec 5) (reg2 : Reg)
  /-- SAR imm5, reg2 (R355). -/
  | sarImm5 (imm5 : BitVec 5) (reg2 : Reg)
  /-- SHL imm5, reg2 (R359). -/
  | shlImm5 (imm5 : BitVec 5) (reg2 : Reg)
  /-- MULH imm5, reg2 (R264). -/
  | mulhImm5 (imm5 : BitVec 5) (reg2 : Reg)
  /-- JR disp32 (R416). -/
  | jrDisp32 (disp31 : BitVec 31)
  /-- JARL disp32, reg1 (R412). -/
  | jarlDisp32 (disp31 : BitVec 31) (reg1 : Reg)
  -- Format IV
  /-- SLD.B disp7 [ep], reg2 (R230). -/
  | sldB (disp7 : BitVec 7) (reg2 : Reg)
  /-- SST.B reg2, disp7 [ep] (R243). -/
  | sstB (reg2 : Reg) (disp7 : BitVec 7)
  /-- SLD.H disp8 [ep], reg2: disp8 bits 7-1 (R232). -/
  | sldH (disp7 : BitVec 7) (reg2 : Reg)
  /-- SST.H reg2, disp8 [ep]: disp8 bits 7-1 (R244). -/
  | sstH (reg2 : Reg) (disp7 : BitVec 7)
  /-- SLD.W disp8 [ep], reg2: disp8 bits 7-2 (R234). -/
  | sldW (disp6 : BitVec 6) (reg2 : Reg)
  /-- SST.W reg2, disp8 [ep]: disp8 bits 7-2 (R245). -/
  | sstW (reg2 : Reg) (disp6 : BitVec 6)
  -- Format III
  /-- Bcond disp9: disp9 bits 8-1 (R410). -/
  | bcond (cccc : Cond) (disp8 : BitVec 8)
  -- Format VI
  /-- ADDI imm16, reg1, reg2 (R282). -/
  | addi (imm16 : Half) (reg1 reg2 : Reg)
  /-- MOV imm32, reg1 (R286). -/
  | movImm32 (imm32 : Word) (reg1 : Reg)
  /-- MOVEA imm16, reg1, reg2 (R287). -/
  | movea (imm16 : Half) (reg1 reg2 : Reg)
  /-- MOVHI imm16, reg1, reg2 (R288). -/
  | movhi (imm16 : Half) (reg1 reg2 : Reg)
  /-- SATSUBI imm16, reg1, reg2 (R316). -/
  | satsubi (imm16 : Half) (reg1 reg2 : Reg)
  -- Format XIII, DISPOSE
  /-- DISPOSE imm5, list12 (R457). -/
  | dispose (imm5 : BitVec 5) (list12 : RegList)
  /-- DISPOSE imm5, list12, [reg1] (R457). -/
  | disposeJmp (imm5 : BitVec 5) (list12 : RegList) (reg1 : Reg)
  -- Format VI, continued
  /-- ORI imm16, reg1, reg2 (R334). -/
  | ori (imm16 : Half) (reg1 reg2 : Reg)
  /-- XORI imm16, reg1, reg2 (R337). -/
  | xori (imm16 : Half) (reg1 reg2 : Reg)
  /-- ANDI imm16, reg1, reg2 (R331). -/
  | andi (imm16 : Half) (reg1 reg2 : Reg)
  /-- MULHI imm16, reg1, reg2 (R265). -/
  | mulhi (imm16 : Half) (reg1 reg2 : Reg)
  /-- JMP disp32 [reg1] (R414). -/
  | jmpDisp32 (disp31 : BitVec 31) (reg1 : Reg)
  -- Format VII
  /-- LD.B disp16 [reg1], reg2 (R220). -/
  | ldB (disp16 : Half) (reg1 reg2 : Reg)
  /-- LD.H disp16 [reg1], reg2 (R224). -/
  | ldH (disp15 : BitVec 15) (reg1 reg2 : Reg)
  /-- LD.W disp16 [reg1], reg2 (R228). -/
  | ldW (disp15 : BitVec 15) (reg1 reg2 : Reg)
  /-- ST.B reg2, disp16 [reg1] (R237). -/
  | stB (reg2 : Reg) (disp16 : Half) (reg1 : Reg)
  /-- ST.H reg2, disp16 [reg1] (R239). -/
  | stH (reg2 : Reg) (disp15 : BitVec 15) (reg1 : Reg)
  /-- ST.W reg2, disp16 [reg1] (R241). -/
  | stW (reg2 : Reg) (disp15 : BitVec 15) (reg1 : Reg)
  -- Format XIII, PREPARE
  /-- PREPARE list12, imm5 (R465). -/
  | prepare (list12 : RegList) (imm5 : BitVec 5)
  /-- PREPARE list12, imm5, sp: ff = 00 (R465). -/
  | prepareSp (list12 : RegList) (imm5 : BitVec 5)
  /-- PREPARE list12, imm5, imm16 (sign-extended): ff = 01 (R465). -/
  | prepareImm16 (list12 : RegList) (imm5 : BitVec 5) (imm16 : Half)
  /-- PREPARE list12, imm5, imm16 (shifted): ff = 10 (R465). -/
  | prepareImm16Hi (list12 : RegList) (imm5 : BitVec 5) (imm16 : Half)
  /-- PREPARE list12, imm5, imm32: ff = 11 (R465). -/
  | prepareImm32 (list12 : RegList) (imm5 : BitVec 5) (imm32 : Word)
  -- Format XIV
  /-- LD.B disp23 [reg1], reg3 (R221). -/
  | ldBDisp23 (disp23 : BitVec 23) (reg1 reg3 : Reg)
  /-- LD.H disp23 [reg1], reg3: disp23 bits 22-1 (R225). -/
  | ldHDisp23 (disp22h : BitVec 22) (reg1 reg3 : Reg)
  /-- LD.W disp23 [reg1], reg3: disp23 bits 22-1 (R229). -/
  | ldWDisp23 (disp22h : BitVec 22) (reg1 reg3 : Reg)
  /-- ST.B reg3, disp23 [reg1] (R238). -/
  | stBDisp23 (reg3 : Reg) (disp23 : BitVec 23) (reg1 : Reg)
  /-- ST.W reg3, disp23 [reg1]: disp23 bits 22-1 (R242). -/
  | stWDisp23 (reg3 : Reg) (disp22h : BitVec 22) (reg1 : Reg)
  /-- LD.BU disp23 [reg1], reg3 (R223). -/
  | ldBuDisp23 (disp23 : BitVec 23) (reg1 reg3 : Reg)
  /-- LD.HU disp23 [reg1], reg3: disp23 bits 22-1 (R227). -/
  | ldHuDisp23 (disp22h : BitVec 22) (reg1 reg3 : Reg)
  /-- ST.H reg3, disp23 [reg1]: disp23 bits 22-1 (R240). -/
  | stHDisp23 (reg3 : Reg) (disp22h : BitVec 22) (reg1 : Reg)
  -- Format V
  /-- JR disp22 (R415). -/
  | jrDisp22 (disp21 : BitVec 21)
  /-- JARL disp22, reg2 (R411). -/
  | jarlDisp22 (disp21 : BitVec 21) (reg2 : Reg)
  -- Format VII, continued
  /-- LD.BU disp16 [reg1], reg2 (R222). -/
  | ldBu (disp16 : Half) (reg1 reg2 : Reg)
  -- Format VIII
  /-- SET1 bit#3, disp16 [reg1] (R432). -/
  | set1 (bit3 : BitVec 3) (disp16 : Half) (reg1 : Reg)
  /-- NOT1 bit#3, disp16 [reg1] (R431). -/
  | not1 (bit3 : BitVec 3) (disp16 : Half) (reg1 : Reg)
  /-- CLR1 bit#3, disp16 [reg1] (R430). -/
  | clr1 (bit3 : BitVec 3) (disp16 : Half) (reg1 : Reg)
  /-- TST1 bit#3, disp16 [reg1] (R433). -/
  | tst1 (bit3 : BitVec 3) (disp16 : Half) (reg1 : Reg)
  -- Format VII, continued
  /-- LD.HU disp16 [reg1], reg2 (R226). -/
  | ldHu (disp15 : BitVec 15) (reg1 reg2 : Reg)
  -- Formats IX, X, XI, XII
  /-- SETF cccc, reg2 (R357). -/
  | setf (cccc : Cond) (reg2 : Reg)
  /-- RIE imm5, imm4, 32-bit form: the bits are free (R467). -/
  | rieImm (imm5 : BitVec 5) (imm4 : BitVec 4)
  /-- LDSR reg2, regID (R463, R198). -/
  | ldsr (reg2 : Reg) (regId : RegId)
  /-- STSR regID, reg2 (R468). -/
  | stsr (regId : RegId) (reg2 : Reg)
  /-- SHR reg1, reg2 (R360). -/
  | shr (reg1 reg2 : Reg)
  /-- SHR reg1, reg2, reg3 (R360). -/
  | shr3 (reg1 reg2 reg3 : Reg)
  /-- SAR reg1, reg2 (R355). -/
  | sar (reg1 reg2 : Reg)
  /-- SAR reg1, reg2, reg3 (R355). -/
  | sar3 (reg1 reg2 reg3 : Reg)
  /-- SHL reg1, reg2 (R359). -/
  | shl (reg1 reg2 : Reg)
  /-- SHL reg1, reg2, reg3 (R359). -/
  | shl3 (reg1 reg2 reg3 : Reg)
  /-- SET1 reg2, [reg1] (R432). -/
  | set1Reg (reg2 reg1 : Reg)
  /-- NOT1 reg2, [reg1] (R431). -/
  | not1Reg (reg2 reg1 : Reg)
  /-- CLR1 reg2, [reg1] (R430). -/
  | clr1Reg (reg2 reg1 : Reg)
  /-- TST1 reg2, [reg1] (R433). -/
  | tst1Reg (reg2 reg1 : Reg)
  /-- CAXI [reg1], reg2, reg3 (R454). -/
  | caxi (reg1 reg2 reg3 : Reg)
  /-- TRAP vector5 (R474). -/
  | trap (vector5 : BitVec 5)
  /-- HALT (R462). -/
  | halt
  /-- RETI (R466). -/
  | reti
  /-- CTRET (R455). -/
  | ctret
  /-- EIRET (R459). -/
  | eiret
  /-- FERET (R460). -/
  | feret
  /-- DI (R456). -/
  | di
  /-- EI (R458). -/
  | ei
  /-- SYSCALL vector8 (R473). -/
  | syscall (vector8 : BitVec 8)
  /-- SASF cccc, reg2 (R356). -/
  | sasf (cccc : Cond) (reg2 : Reg)
  /-- MUL reg1, reg2, reg3 (R260). -/
  | mul (reg1 reg2 reg3 : Reg)
  /-- MULU reg1, reg2, reg3 (R266). -/
  | mulu (reg1 reg2 reg3 : Reg)
  /-- MUL imm9, reg2, reg3 (R261). -/
  | mulImm9 (imm9 : BitVec 9) (reg2 reg3 : Reg)
  /-- MULU imm9, reg2, reg3 (R267). -/
  | muluImm9 (imm9 : BitVec 9) (reg2 reg3 : Reg)
  /-- DIVH reg1, reg2, reg3 (R392). -/
  | divh3 (reg1 reg2 reg3 : Reg)
  /-- DIVHU reg1, reg2, reg3 (R393). -/
  | divhu (reg1 reg2 reg3 : Reg)
  /-- DIV reg1, reg2, reg3 (R390). -/
  | div (reg1 reg2 reg3 : Reg)
  /-- DIVU reg1, reg2, reg3 (R394). -/
  | divu (reg1 reg2 reg3 : Reg)
  /-- DIVQ reg1, reg2, reg3 (R395). -/
  | divq (reg1 reg2 reg3 : Reg)
  /-- DIVQU reg1, reg2, reg3 (R396). -/
  | divqu (reg1 reg2 reg3 : Reg)
  /-- CMOV cccc, imm5, reg2, reg3 (R353). -/
  | cmovImm5 (cccc : Cond) (imm5 : BitVec 5) (reg2 reg3 : Reg)
  /-- CMOV cccc, reg1, reg2, reg3 (R352). -/
  | cmov (cccc : Cond) (reg1 reg2 reg3 : Reg)
  /-- BSW reg2, reg3 (R351). -/
  | bsw (reg2 reg3 : Reg)
  /-- BSH reg2, reg3 (R350). -/
  | bsh (reg2 reg3 : Reg)
  /-- HSW reg2, reg3 (R354). -/
  | hsw (reg2 reg3 : Reg)
  /-- HSH reg2, reg3 (R358). -/
  | hsh (reg2 reg3 : Reg)
  /-- SCH0R reg2, reg3 (R371). -/
  | sch0r (reg2 reg3 : Reg)
  /-- SCH1R reg2, reg3 (R373). -/
  | sch1r (reg2 reg3 : Reg)
  /-- SCH0L reg2, reg3 (R370). -/
  | sch0l (reg2 reg3 : Reg)
  /-- SCH1L reg2, reg3 (R372). -/
  | sch1l (reg2 reg3 : Reg)
  /-- SBF cccc, reg1, reg2, reg3 (R292). -/
  | sbf (cccc : Cond) (reg1 reg2 reg3 : Reg)
  /-- SATSUB reg1, reg2, reg3 (R315). -/
  | satsub3 (reg1 reg2 reg3 : Reg)
  /-- ADF cccc, reg1, reg2, reg3 (R291). -/
  | adf (cccc : Cond) (reg1 reg2 reg3 : Reg)
  /-- SATADD reg1, reg2, reg3 (R313). -/
  | satadd3 (reg1 reg2 reg3 : Reg)
  /-- MAC reg1, reg2, reg3, reg4: reg3 and reg4 are even register pairs (R270). -/
  | mac (reg1 reg2 : Reg) (reg3 reg4 : RegPair)
  /-- MACU reg1, reg2, reg3, reg4: reg3 and reg4 are even register pairs (R271). -/
  | macu (reg1 reg2 : Reg) (reg3 reg4 : RegPair)
  deriving DecidableEq, Repr

end Sys2Proof
end

