-- ==== Sys2Proof/WellFormed.lean ====
section
/-! DEFINITION. Which instructions exist: the register fields that must not be 00000 and the condition that ADF and SBF
do not have (30_encoding.md R186, R190, R199). With such a value the code is another instruction. -/

namespace Sys2Proof

/-- The check of R186, as a Bool so that it can be evaluated. -/
def Instr.wellFormed : Instr → Bool
  | .mov _ reg2 => reg2 != 0
  | .switch reg1 => reg1 != 0
  | .fetrap vector4 => vector4 != 0
  | .divh reg1 reg2 => reg1 != 0 && reg2 != 0
  | .sldBu _ reg2 => reg2 != 0
  | .sldHu _ reg2 => reg2 != 0
  | .satsubr _ reg2 => reg2 != 0
  | .satsub _ reg2 => reg2 != 0
  | .satadd _ reg2 => reg2 != 0
  | .mulh _ reg2 => reg2 != 0
  | .movImm5 _ reg2 => reg2 != 0
  | .sataddImm5 _ reg2 => reg2 != 0
  | .mulhImm5 _ reg2 => reg2 != 0
  | .jarlDisp32 _ reg1 => reg1 != 0
  | .movea _ _ reg2 => reg2 != 0
  | .movhi _ _ reg2 => reg2 != 0
  | .satsubi _ _ reg2 => reg2 != 0
  | .disposeJmp _ _ reg1 => reg1 != 0
  | .mulhi _ _ reg2 => reg2 != 0
  | .jarlDisp22 _ reg2 => reg2 != 0
  | .ldBu _ _ reg2 => reg2 != 0
  | .ldHu _ _ reg2 => reg2 != 0
  | .sbf cccc _ _ _ => cccc != .sa
  | .adf cccc _ _ _ => cccc != .sa
  | .nop | .synce | .syncm | .syncp | .rie | .halt | .reti | .ctret | .eiret | .feret | .di | .ei => true
  | .not _ _ | .or _ _ | .xor _ _ | .and _ _ | .tst _ _ | .subr _ _ | .sub _ _ | .add _ _ | .cmp _ _ => true
  | .jmp _ | .zxb _ | .sxb _ | .zxh _ | .sxh _ => true
  | .addImm5 _ _ | .cmpImm5 _ _ | .callt _ | .shrImm5 _ _ | .sarImm5 _ _ | .shlImm5 _ _ | .jrDisp32 _ => true
  | .sldB _ _ | .sstB _ _ | .sldH _ _ | .sstH _ _ | .sldW _ _ | .sstW _ _ | .bcond _ _ => true
  | .addi _ _ _ | .movImm32 _ _ | .dispose _ _ | .ori _ _ _ | .xori _ _ _ | .andi _ _ _ | .jmpDisp32 _ _ => true
  | .ldB _ _ _ | .ldH _ _ _ | .ldW _ _ _ | .stB _ _ _ | .stH _ _ _ | .stW _ _ _ => true
  | .prepare _ _ | .prepareSp _ _ | .prepareImm16 _ _ _ | .prepareImm16Hi _ _ _ | .prepareImm32 _ _ _ => true
  | .ldBDisp23 _ _ _ | .ldHDisp23 _ _ _ | .ldWDisp23 _ _ _ | .stBDisp23 _ _ _ | .stWDisp23 _ _ _ => true
  | .ldBuDisp23 _ _ _ | .ldHuDisp23 _ _ _ | .stHDisp23 _ _ _ | .jrDisp22 _ => true
  | .set1 _ _ _ | .not1 _ _ _ | .clr1 _ _ _ | .tst1 _ _ _ => true
  | .setf _ _ | .rieImm _ _ | .ldsr _ _ | .stsr _ _ => true
  | .shr _ _ | .shr3 _ _ _ | .sar _ _ | .sar3 _ _ _ | .shl _ _ | .shl3 _ _ _ => true
  | .set1Reg _ _ | .not1Reg _ _ | .clr1Reg _ _ | .tst1Reg _ _ | .caxi _ _ _ | .trap _ | .syscall _ => true
  | .sasf _ _ | .mul _ _ _ | .mulu _ _ _ | .mulImm9 _ _ _ | .muluImm9 _ _ _ => true
  | .divh3 _ _ _ | .divhu _ _ _ | .div _ _ _ | .divu _ _ _ | .divq _ _ _ | .divqu _ _ _ => true
  | .cmovImm5 _ _ _ _ | .cmov _ _ _ _ | .bsw _ _ | .bsh _ _ | .hsw _ _ | .hsh _ _ => true
  | .sch0r _ _ | .sch1r _ _ | .sch0l _ _ | .sch1l _ _ | .satsub3 _ _ _ | .satadd3 _ _ _ => true
  | .mac _ _ _ _ | .macu _ _ _ _ => true

/-- The instruction is one that an encoding of R199 stands for. -/
abbrev Instr.WellFormed (i : Instr) : Prop := i.wellFormed = true

end Sys2Proof
end

