-- ==== Sys2Proof/Decode.lean ====
section
/-! DEFINITION. From halfwords to instructions and back (30_encoding.md): the fields of R171, the length of R188, the
decision tree of R189 to R191, and the encoder that writes each pattern of R199. -/

namespace Sys2Proof

/-! ## Fields (R171) -/

/-- reg2, the letters r: bits 15-11 of hw1. -/
def fReg2 (h1 : Half) : Reg := h1.extractLsb' 11 5

/-- reg1, the letters R: bits 4-0 of hw1. -/
def fReg1 (h1 : Half) : Reg := h1.extractLsb' 0 5

/-- The upper four bits of the major opcode: bits 10-7 of hw1. -/
def fOp4 (h1 : Half) : BitVec 4 := h1.extractLsb' 7 4

/-- The lower two bits of the major opcode: bits 6-5 of hw1. -/
def fOp2 (h1 : Half) : BitVec 2 := h1.extractLsb' 5 2

/-- reg3, the letters w: bits 31-27, which are bits 15-11 of hw2. -/
def fReg3 (h2 : Half) : Reg := h2.extractLsb' 11 5

/-- The sub-opcode sub6: bits 26-21, which are bits 10-5 of hw2. -/
def fSub6 (h2 : Half) : BitVec 6 := h2.extractLsb' 5 6

/-- The low sub-opcode sub5: bits 20-16, which are bits 4-0 of hw2. -/
def fSub5 (h2 : Half) : BitVec 5 := h2.extractLsb' 0 5

/-- Instruction bit 16: bit 0 of hw2. -/
def fBit16 (h2 : Half) : BitVec 1 := h2.extractLsb' 0 1

/-- cccc in bits 3-0 of hw1 (Bcond, SETF, SASF, R187). -/
def fCond1 (h1 : Half) : BitVec 4 := h1.extractLsb' 0 4

/-- cccc or reg4 in bits 20-17: bits 4-1 of hw2 (CMOV, ADF, SBF, MAC, MACU, R187). -/
def fMid4 (h2 : Half) : BitVec 4 := h2.extractLsb' 1 4

/-- imm5 of the stack instructions: bits 5-1 of hw1 (R184). -/
def fImm5 (h1 : Half) : BitVec 5 := h1.extractLsb' 1 5

/-- The register list: list12 bits 31-21 in bits 15-5 of hw2, list12 bit 0 in bit 0 of hw1 (R452). -/
def fList (h1 h2 : Half) : RegList := h2.extractLsb' 5 11 ++ h1.extractLsb' 0 1

/-- disp16 bits 15-1 or disp22 and disp32 bits 15-1: bits 15-1 of hw2 (R178, R176, R192). -/
def fDisp15 (h2 : Half) : BitVec 15 := h2.extractLsb' 1 15

/-- disp32 bits 31-1: hw3, then bits 15-1 of hw2 (R192). -/
def fDisp31 (h2 h3 : Half) : BitVec 31 := h3 ++ fDisp15 h2

/-- disp22 bits 21-1: bits 5-0 of hw1, then bits 15-1 of hw2 (R176). -/
def fDisp21 (h1 h2 : Half) : BitVec 21 := h1.extractLsb' 0 6 ++ fDisp15 h2

/-- disp23, byte forms: hw3, then bits 10-4 of hw2 (R185). -/
def fDisp23 (h2 h3 : Half) : BitVec 23 := h3 ++ h2.extractLsb' 4 7

/-- disp23 bits 22-1, halfword and word forms: hw3, then bits 10-5 of hw2 (R185). -/
def fDisp22h (h2 h3 : Half) : BitVec 22 := h3 ++ h2.extractLsb' 5 6

/-- The condition of a code cccc (R13). -/
def condOf (b : BitVec 4) : Cond :=
  if b = 0x0 then .v else if b = 0x1 then .c else if b = 0x2 then .z else if b = 0x3 then .nh
  else if b = 0x4 then .n else if b = 0x5 then .t else if b = 0x6 then .lt else if b = 0x7 then .le
  else if b = 0x8 then .nv else if b = 0x9 then .nc else if b = 0xA then .nz else if b = 0xB then .h
  else if b = 0xC then .p else if b = 0xD then .sa else if b = 0xE then .ge else .gt

/-- The code cccc of a condition (R13). -/
def condBits : Cond → BitVec 4
  | .v => 0x0 | .c => 0x1 | .z => 0x2 | .nh => 0x3 | .n => 0x4 | .t => 0x5 | .lt => 0x6 | .le => 0x7
  | .nv => 0x8 | .nc => 0x9 | .nz => 0xA | .h => 0xB | .p => 0xC | .sa => 0xD | .ge => 0xE | .gt => 0xF

/-! ## Length (R188) -/

/-- The length in bytes, from hw1 and hw2, by the procedure of R188. -/
def instrBytes (h1 h2 : Half) : Nat :=
  if h1.extractLsb' 9 2 ≠ 0b11#2 then
    if fOp4 h1 = 0b0101 ∧ fOp2 h1 = 0b11 ∧ fReg2 h1 = 0 then 6 else 2
  else if fOp4 h1 = 0b1100 ∧ fOp2 h1 = 0b01 ∧ fReg2 h1 = 0 then 6
  else if fOp4 h1 = 0b1101 ∧ fOp2 h1 = 0b11 ∧ fReg2 h1 = 0 then 6
  else if fOp4 h1 = 0b1111 ∧ h1.extractLsb' 6 1 = 0#1 ∧ fReg2 h1 = 0 ∧ fBit16 h2 = 1 then
    if h2.extractLsb' 0 3 = 0b011#3 then
      if h2.extractLsb' 3 2 = 0b00#2 then 4
      else if h2.extractLsb' 3 2 = 0b11#2 then 8
      else 6
    else if fSub5 h2 = 0b00001 then 4
    else if h2.extractLsb' 0 4 = 0b0101#4 then 6
    else if h2.extractLsb' 0 4 = 0b0111#4 then 6
    else if h2.extractLsb' 0 4 = 0b1001#4 then 6
    else if h2.extractLsb' 0 4 = 0b1101#4 then 6
    else if h2.extractLsb' 0 4 = 0b1111#4 then 6
    else 4
  else 4

/-! ## The decision tree (R189, R190, R191) -/

/-- op6 = 0000xx and 0001xx: Format I with the register-field aliases of R186. -/
def decodeLow (h1 : Half) : Option Instr :=
  if fOp4 h1 = 0b0000 then
    if fOp2 h1 = 0b00 then
      if fReg2 h1 ≠ 0 then some (.mov (fReg1 h1) (fReg2 h1))
      else if fReg1 h1 = 0b00000 then some .nop
      else if fReg1 h1 = 0b11101 then some .synce
      else if fReg1 h1 = 0b11110 then some .syncm
      else if fReg1 h1 = 0b11111 then some .syncp
      else none
    else if fOp2 h1 = 0b01 then some (.not (fReg1 h1) (fReg2 h1))
    else if fOp2 h1 = 0b10 then
      if fReg1 h1 ≠ 0 then
        if fReg2 h1 = 0 then some (.switch (fReg1 h1)) else some (.divh (fReg1 h1) (fReg2 h1))
      else if fReg2 h1 = 0 then some .rie
      else if h1.extractLsb' 15 1 = 0#1 then some (.fetrap (h1.extractLsb' 11 4))
      else none
    else if fReg2 h1 = 0 then some (.jmp (fReg1 h1))
    else if h1.extractLsb' 4 1 = 0#1 then some (.sldBu (h1.extractLsb' 0 4) (fReg2 h1))
    else some (.sldHu (h1.extractLsb' 0 4) (fReg2 h1))
  else if fReg2 h1 = 0 then
    if fOp2 h1 = 0b00 then some (.zxb (fReg1 h1))
    else if fOp2 h1 = 0b01 then some (.sxb (fReg1 h1))
    else if fOp2 h1 = 0b10 then some (.zxh (fReg1 h1))
    else some (.sxh (fReg1 h1))
  else if fOp2 h1 = 0b00 then some (.satsubr (fReg1 h1) (fReg2 h1))
  else if fOp2 h1 = 0b01 then some (.satsub (fReg1 h1) (fReg2 h1))
  else if fOp2 h1 = 0b10 then some (.satadd (fReg1 h1) (fReg2 h1))
  else some (.mulh (fReg1 h1) (fReg2 h1))

/-- op6 = 0010xx and 0011xx: Format I without aliases. -/
def decodeRegReg (h1 : Half) : Option Instr :=
  if fOp4 h1 = 0b0010 then
    if fOp2 h1 = 0b00 then some (.or (fReg1 h1) (fReg2 h1))
    else if fOp2 h1 = 0b01 then some (.xor (fReg1 h1) (fReg2 h1))
    else if fOp2 h1 = 0b10 then some (.and (fReg1 h1) (fReg2 h1))
    else some (.tst (fReg1 h1) (fReg2 h1))
  else if fOp2 h1 = 0b00 then some (.subr (fReg1 h1) (fReg2 h1))
  else if fOp2 h1 = 0b01 then some (.sub (fReg1 h1) (fReg2 h1))
  else if fOp2 h1 = 0b10 then some (.add (fReg1 h1) (fReg2 h1))
  else some (.cmp (fReg1 h1) (fReg2 h1))

/-- op6 = 0100xx and 0101xx: Format II, CALLT, and the 48-bit JR and JARL. -/
def decodeImm5 (h1 h2 h3 : Half) : Option Instr :=
  if fOp4 h1 = 0b0100 then
    if h1.extractLsb' 6 1 = 0#1 ∧ fReg2 h1 = 0 then some (.callt (h1.extractLsb' 0 6))
    else if fOp2 h1 = 0b00 then some (.movImm5 (fReg1 h1) (fReg2 h1))
    else if fOp2 h1 = 0b01 then some (.sataddImm5 (fReg1 h1) (fReg2 h1))
    else if fOp2 h1 = 0b10 then some (.addImm5 (fReg1 h1) (fReg2 h1))
    else some (.cmpImm5 (fReg1 h1) (fReg2 h1))
  else if fOp2 h1 = 0b00 then some (.shrImm5 (fReg1 h1) (fReg2 h1))
  else if fOp2 h1 = 0b01 then some (.sarImm5 (fReg1 h1) (fReg2 h1))
  else if fOp2 h1 = 0b10 then some (.shlImm5 (fReg1 h1) (fReg2 h1))
  else if fReg2 h1 ≠ 0 then some (.mulhImm5 (fReg1 h1) (fReg2 h1))
  else if fBit16 h2 = 1 then none
  else if fReg1 h1 = 0 then some (.jrDisp32 (fDisp31 h2 h3))
  else some (.jarlDisp32 (fDisp31 h2 h3) (fReg1 h1))

/-- op6 = 0110xx to 1011xx: Formats IV and III. -/
def decodeShort (h1 : Half) : Option Instr :=
  if fOp4 h1 = 0b0110 then some (.sldB (h1.extractLsb' 0 7) (fReg2 h1))
  else if fOp4 h1 = 0b0111 then some (.sstB (fReg2 h1) (h1.extractLsb' 0 7))
  else if fOp4 h1 = 0b1000 then some (.sldH (h1.extractLsb' 0 7) (fReg2 h1))
  else if fOp4 h1 = 0b1001 then some (.sstH (fReg2 h1) (h1.extractLsb' 0 7))
  else if fOp4 h1 = 0b1010 then
    if h1.extractLsb' 0 1 = 0#1 then some (.sldW (h1.extractLsb' 1 6) (fReg2 h1))
    else some (.sstW (fReg2 h1) (h1.extractLsb' 1 6))
  else some (.bcond (condOf (fCond1 h1)) (fReg2 h1 ++ h1.extractLsb' 4 3))

/-- op6 = 1100xx and 1101xx: Format VI, MOV imm32, DISPOSE, JMP disp32. -/
def decodeImm16 (h1 h2 h3 : Half) : Option Instr :=
  if fOp4 h1 = 0b1100 then
    if fOp2 h1 = 0b00 then some (.addi h2 (fReg1 h1) (fReg2 h1))
    else if fOp2 h1 = 0b01 then
      if fReg2 h1 = 0 then some (.movImm32 (h3 ++ h2) (fReg1 h1)) else some (.movea h2 (fReg1 h1) (fReg2 h1))
    else if fReg2 h1 = 0 then
      if fSub5 h2 = 0 then some (.dispose (fImm5 h1) (fList h1 h2))
      else some (.disposeJmp (fImm5 h1) (fList h1 h2) (fSub5 h2))
    else if fOp2 h1 = 0b10 then some (.movhi h2 (fReg1 h1) (fReg2 h1))
    else some (.satsubi h2 (fReg1 h1) (fReg2 h1))
  else if fOp2 h1 = 0b00 then some (.ori h2 (fReg1 h1) (fReg2 h1))
  else if fOp2 h1 = 0b01 then some (.xori h2 (fReg1 h1) (fReg2 h1))
  else if fOp2 h1 = 0b10 then some (.andi h2 (fReg1 h1) (fReg2 h1))
  else if fReg2 h1 ≠ 0 then some (.mulhi h2 (fReg1 h1) (fReg2 h1))
  else if fBit16 h2 = 1 then none
  else some (.jmpDisp32 (fDisp31 h2 h3) (fReg1 h1))

/-- op6 = 1110xx: the 16-bit displacement loads and stores of Format VII. -/
def decodeDisp16 (h1 h2 : Half) : Option Instr :=
  if fOp2 h1 = 0b00 then some (.ldB h2 (fReg1 h1) (fReg2 h1))
  else if fOp2 h1 = 0b01 then
    if fBit16 h2 = 0 then some (.ldH (fDisp15 h2) (fReg1 h1) (fReg2 h1))
    else some (.ldW (fDisp15 h2) (fReg1 h1) (fReg2 h1))
  else if fOp2 h1 = 0b10 then some (.stB (fReg2 h1) h2 (fReg1 h1))
  else if fBit16 h2 = 0 then some (.stH (fReg2 h1) (fDisp15 h2) (fReg1 h1))
  else some (.stW (fReg2 h1) (fDisp15 h2) (fReg1 h1))

/-- op6 = 11110x with reg2 = 00000 and bit 16 = 1: PREPARE and Format XIV (R191). -/
def decodeFrame (h1 h2 h3 h4 : Half) : Option Instr :=
  if fSub5 h2 = 0b00001 then some (.prepare (fList h1 h2) (fImm5 h1))
  else if fSub5 h2 = 0b00011 then some (.prepareSp (fList h1 h2) (fImm5 h1))
  else if fSub5 h2 = 0b01011 then some (.prepareImm16 (fList h1 h2) (fImm5 h1) h3)
  else if fSub5 h2 = 0b10011 then some (.prepareImm16Hi (fList h1 h2) (fImm5 h1) h3)
  else if fSub5 h2 = 0b11011 then some (.prepareImm32 (fList h1 h2) (fImm5 h1) (h4 ++ h3))
  else if h1.extractLsb' 5 1 = 0#1 then
    if h2.extractLsb' 0 4 = 0b0101#4 then some (.ldBDisp23 (fDisp23 h2 h3) (fReg1 h1) (fReg3 h2))
    else if h2.extractLsb' 0 4 = 0b1101#4 then some (.stBDisp23 (fReg3 h2) (fDisp23 h2 h3) (fReg1 h1))
    else if fSub5 h2 = 0b00111 then some (.ldHDisp23 (fDisp22h h2 h3) (fReg1 h1) (fReg3 h2))
    else if fSub5 h2 = 0b01001 then some (.ldWDisp23 (fDisp22h h2 h3) (fReg1 h1) (fReg3 h2))
    else if fSub5 h2 = 0b01111 then some (.stWDisp23 (fReg3 h2) (fDisp22h h2 h3) (fReg1 h1))
    else none
  else if h2.extractLsb' 0 4 = 0b0101#4 then some (.ldBuDisp23 (fDisp23 h2 h3) (fReg1 h1) (fReg3 h2))
  else if fSub5 h2 = 0b00111 then some (.ldHuDisp23 (fDisp22h h2 h3) (fReg1 h1) (fReg3 h2))
  else if fSub5 h2 = 0b01101 then some (.stHDisp23 (fReg3 h2) (fDisp22h h2 h3) (fReg1 h1))
  else none

/-- op6 = 111111, bit 16 = 0, sub6 below 010000: R190, the rows whose bits 31-27 are mostly fixed. -/
def decodeExtLow (h1 h2 : Half) : Option Instr :=
  if fSub6 h2 = 0b000100 ∧ fSub5 h2 = 0b00010 then some (.shr3 (fReg1 h1) (fReg2 h1) (fReg3 h2))
  else if fSub6 h2 = 0b000101 ∧ fSub5 h2 = 0b00010 then some (.sar3 (fReg1 h1) (fReg2 h1) (fReg3 h2))
  else if fSub6 h2 = 0b000110 ∧ fSub5 h2 = 0b00010 then some (.shl3 (fReg1 h1) (fReg2 h1) (fReg3 h2))
  else if fSub6 h2 = 0b000111 ∧ fSub5 h2 = 0b01110 then some (.caxi (fReg1 h1) (fReg2 h1) (fReg3 h2))
  else if fSub6 h2 = 0b001011 ∧ fSub5 h2 = 0 ∧ fReg2 h1 = 0b11010 ∧ h2.extractLsb' 14 2 = 0#2 then
    some (.syscall (h2.extractLsb' 11 3 ++ fReg1 h1))
  else if h2 = 0x0000 then
    if h1.extractLsb' 4 1 = 0#1 then some (.setf (condOf (fCond1 h1)) (fReg2 h1))
    else some (.rieImm (fReg2 h1) (fCond1 h1))
  else if h2 = 0x0020 then some (.ldsr (fReg1 h1) (fReg2 h1))
  else if h2 = 0x0040 then some (.stsr (fReg1 h1) (fReg2 h1))
  else if h2 = 0x0080 then some (.shr (fReg1 h1) (fReg2 h1))
  else if h2 = 0x00A0 then some (.sar (fReg1 h1) (fReg2 h1))
  else if h2 = 0x00C0 then some (.shl (fReg1 h1) (fReg2 h1))
  else if h2 = 0x00E0 then some (.set1Reg (fReg2 h1) (fReg1 h1))
  else if h2 = 0x00E2 then some (.not1Reg (fReg2 h1) (fReg1 h1))
  else if h2 = 0x00E4 then some (.clr1Reg (fReg2 h1) (fReg1 h1))
  else if h2 = 0x00E6 then some (.tst1Reg (fReg2 h1) (fReg1 h1))
  else if h2 = 0x0100 then (if fReg2 h1 = 0 then some (.trap (fReg1 h1)) else none)
  else if h1 = 0x07E0 then
    if h2 = 0x0120 then some .halt
    else if h2 = 0x0140 then some .reti
    else if h2 = 0x0144 then some .ctret
    else if h2 = 0x0148 then some .eiret
    else if h2 = 0x014A then some .feret
    else if h2 = 0x0160 then some .di
    else none
  else if h1 = 0x87E0 ∧ h2 = 0x0160 then some .ei
  else none

/-- op6 = 111111, bit 16 = 0, sub6 from 010000 on: R190, the rows with reg3 in bits 31-27. -/
def decodeExtHigh (h1 h2 : Half) : Option Instr :=
  if h2 = 0x0200 then
    (if h1.extractLsb' 4 1 = 0#1 then some (.sasf (condOf (fCond1 h1)) (fReg2 h1)) else none)
  else if fSub6 h2 = 0b010001 then
    if fSub5 h2 = 0b00000 then some (.mul (fReg1 h1) (fReg2 h1) (fReg3 h2))
    else if fSub5 h2 = 0b00010 then some (.mulu (fReg1 h1) (fReg2 h1) (fReg3 h2))
    else none
  else if h2.extractLsb' 6 5 = 0b01001#5 then
    if h2.extractLsb' 0 2 = 0b00#2 then some (.mulImm9 (h2.extractLsb' 2 4 ++ fReg1 h1) (fReg2 h1) (fReg3 h2))
    else if h2.extractLsb' 0 2 = 0b10#2 then some (.muluImm9 (h2.extractLsb' 2 4 ++ fReg1 h1) (fReg2 h1) (fReg3 h2))
    else none
  else if fSub6 h2 = 0b010100 then
    if fSub5 h2 = 0b00000 then some (.divh3 (fReg1 h1) (fReg2 h1) (fReg3 h2))
    else if fSub5 h2 = 0b00010 then some (.divhu (fReg1 h1) (fReg2 h1) (fReg3 h2))
    else none
  else if fSub6 h2 = 0b010110 then
    if fSub5 h2 = 0b00000 then some (.div (fReg1 h1) (fReg2 h1) (fReg3 h2))
    else if fSub5 h2 = 0b00010 then some (.divu (fReg1 h1) (fReg2 h1) (fReg3 h2))
    else none
  else if fSub6 h2 = 0b010111 then
    if fSub5 h2 = 0b11100 then some (.divq (fReg1 h1) (fReg2 h1) (fReg3 h2))
    else if fSub5 h2 = 0b11110 then some (.divqu (fReg1 h1) (fReg2 h1) (fReg3 h2))
    else none
  else if fSub6 h2 = 0b011000 then some (.cmovImm5 (condOf (fMid4 h2)) (fReg1 h1) (fReg2 h1) (fReg3 h2))
  else if fSub6 h2 = 0b011001 then some (.cmov (condOf (fMid4 h2)) (fReg1 h1) (fReg2 h1) (fReg3 h2))
  else if fSub6 h2 = 0b011010 ∧ fReg1 h1 = 0 then
    if fSub5 h2 = 0b00000 then some (.bsw (fReg2 h1) (fReg3 h2))
    else if fSub5 h2 = 0b00010 then some (.bsh (fReg2 h1) (fReg3 h2))
    else if fSub5 h2 = 0b00100 then some (.hsw (fReg2 h1) (fReg3 h2))
    else if fSub5 h2 = 0b00110 then some (.hsh (fReg2 h1) (fReg3 h2))
    else none
  else if fSub6 h2 = 0b011011 ∧ fReg1 h1 = 0 then
    if fSub5 h2 = 0b00000 then some (.sch0r (fReg2 h1) (fReg3 h2))
    else if fSub5 h2 = 0b00010 then some (.sch1r (fReg2 h1) (fReg3 h2))
    else if fSub5 h2 = 0b00100 then some (.sch0l (fReg2 h1) (fReg3 h2))
    else if fSub5 h2 = 0b00110 then some (.sch1l (fReg2 h1) (fReg3 h2))
    else none
  else if fSub6 h2 = 0b011100 then
    if fMid4 h2 = 0xD then some (.satsub3 (fReg1 h1) (fReg2 h1) (fReg3 h2))
    else some (.sbf (condOf (fMid4 h2)) (fReg1 h1) (fReg2 h1) (fReg3 h2))
  else if fSub6 h2 = 0b011101 then
    if fMid4 h2 = 0xD then some (.satadd3 (fReg1 h1) (fReg2 h1) (fReg3 h2))
    else some (.adf (condOf (fMid4 h2)) (fReg1 h1) (fReg2 h1) (fReg3 h2))
  else if fSub6 h2 = 0b011110 ∧ h2.extractLsb' 11 1 = 0#1 then
    some (.mac (fReg1 h1) (fReg2 h1) (h2.extractLsb' 12 4) (fMid4 h2))
  else if fSub6 h2 = 0b011111 ∧ h2.extractLsb' 11 1 = 0#1 then
    some (.macu (fReg1 h1) (fReg2 h1) (h2.extractLsb' 12 4) (fMid4 h2))
  else none

/-- op6 = 1111xx: Formats V, VII, VIII and the extended group. -/
def decodeLong (h1 h2 h3 h4 : Half) : Option Instr :=
  if h1.extractLsb' 6 1 = 0#1 then
    if fBit16 h2 = 0 then
      if fReg2 h1 = 0 then some (.jrDisp22 (fDisp21 h1 h2)) else some (.jarlDisp22 (fDisp21 h1 h2) (fReg2 h1))
    else if fReg2 h1 = 0 then decodeFrame h1 h2 h3 h4
    else some (.ldBu (fDisp15 h2 ++ h1.extractLsb' 5 1) (fReg1 h1) (fReg2 h1))
  else if fOp2 h1 = 0b10 then
    if h1.extractLsb' 14 2 = 0b00#2 then some (.set1 (h1.extractLsb' 11 3) h2 (fReg1 h1))
    else if h1.extractLsb' 14 2 = 0b01#2 then some (.not1 (h1.extractLsb' 11 3) h2 (fReg1 h1))
    else if h1.extractLsb' 14 2 = 0b10#2 then some (.clr1 (h1.extractLsb' 11 3) h2 (fReg1 h1))
    else some (.tst1 (h1.extractLsb' 11 3) h2 (fReg1 h1))
  else if fBit16 h2 = 1 then
    if fReg2 h1 = 0 then none else some (.ldHu (fDisp15 h2) (fReg1 h1) (fReg2 h1))
  else if h2.extractLsb' 9 2 = 0b00#2 then decodeExtLow h1 h2
  else decodeExtHigh h1 h2

/-- The instruction of up to four halfwords, none for a reserved opcode (R189, R193). -/
def decodeHalfwords (h1 h2 h3 h4 : Half) : Option Instr :=
  let op := h1.extractLsb' 8 3
  if op = 0b000#3 then decodeLow h1
  else if op = 0b001#3 then decodeRegReg h1
  else if op = 0b010#3 then decodeImm5 h1 h2 h3
  else if op = 0b110#3 then decodeImm16 h1 h2 h3
  else if op = 0b111#3 then
    if fOp4 h1 = 0b1110 then decodeDisp16 h1 h2 else decodeLong h1 h2 h3 h4
  else decodeShort h1

/-! ## Bytes -/

/-- Why bytes are no instruction. -/
inductive DecodeReject where
  /-- The bytes end before the instruction does. -/
  | truncated
  /-- The code matches no row of R199 (R193). -/
  | reservedOpcode
  deriving DecidableEq, Repr

/-- The answer of the decoder: the instruction and the bytes after it, or a rejection by name. -/
inductive Decoded where
  | instr (i : Instr) (rest : List Byte)
  | rejected (why : DecodeReject)
  deriving DecidableEq, Repr

/-- Halfword k (from 0) of bytes stored little-endian (R108); a byte that is not there counts as 00H. -/
def halfAt (bs : List Byte) (k : Nat) : Half := bs.getD (2 * k + 1) 0 ++ bs.getD (2 * k) 0

/-- The instruction at the head of the bytes, and the rest of the bytes. -/
def decode (bs : List Byte) : Decoded :=
  let n := instrBytes (halfAt bs 0) (halfAt bs 1)
  if bs.length < n then .rejected .truncated
  else
    match decodeHalfwords (halfAt bs 0) (halfAt bs 1) (halfAt bs 2) (halfAt bs 3) with
    | some i => .instr i (bs.drop n)
    | none => .rejected .reservedOpcode

/-! ## The encoder (R199) -/

/-- A halfword of two fields, high-order first. -/
def cat2 {i j : Nat} (a : BitVec i) (b : BitVec j) : Half := (a ++ b).setWidth 16

/-- A halfword of three fields, high-order first. -/
def cat3 {i j k : Nat} (a : BitVec i) (b : BitVec j) (c : BitVec k) : Half := (a ++ b ++ c).setWidth 16

/-- A halfword of four fields, high-order first. -/
def cat4 {i j k l : Nat} (a : BitVec i) (b : BitVec j) (c : BitVec k) (d : BitVec l) : Half :=
  (a ++ b ++ c ++ d).setWidth 16

/-- A halfword of five fields, high-order first. -/
def cat5 {i j k l m : Nat} (a : BitVec i) (b : BitVec j) (c : BitVec k) (d : BitVec l) (e : BitVec m) : Half :=
  (a ++ b ++ c ++ d ++ e).setWidth 16

/-- hw1 of Formats I, II, VI, VII, IX, XI, XII: reg2, op6, reg1. -/
def opHalf (r : BitVec 5) (op : BitVec 6) (R : BitVec 5) : Half := cat3 r op R

/-- hw1 of Format XIII: 00000, a 5-bit opcode, imm5, list12 bit 0. -/
def stackHalf (op : BitVec 5) (imm5 : BitVec 5) (list : RegList) : Half :=
  cat4 0b00000#5 op imm5 (list.extractLsb' 0 1)

/-- hw2 of Format XIII: list12 bits 31-21 and bits 20-16. -/
def listHalf (list : RegList) (low : BitVec 5) : Half := cat2 (list.extractLsb' 1 11) low

/-- The halfwords of a well-formed instruction, hw1 first, each the pattern of its row of R199. -/
def encode : Instr → List Half
  | .nop => [0x0000]
  | .synce => [0x001D]
  | .syncm => [0x001E]
  | .syncp => [0x001F]
  | .mov R r => [opHalf r 0b000000 R]
  | .not R r => [opHalf r 0b000001 R]
  | .rie => [0x0040]
  | .switch R => [opHalf 0 0b000010 R]
  | .fetrap v => [cat3 0b0#1 v 0b00001000000#11]
  | .divh R r => [opHalf r 0b000010 R]
  | .jmp R => [opHalf 0 0b000011 R]
  | .sldBu d r => [cat3 r 0b0000110#7 d]
  | .sldHu d r => [cat3 r 0b0000111#7 d]
  | .zxb R => [opHalf 0 0b000100 R]
  | .sxb R => [opHalf 0 0b000101 R]
  | .zxh R => [opHalf 0 0b000110 R]
  | .sxh R => [opHalf 0 0b000111 R]
  | .satsubr R r => [opHalf r 0b000100 R]
  | .satsub R r => [opHalf r 0b000101 R]
  | .satadd R r => [opHalf r 0b000110 R]
  | .mulh R r => [opHalf r 0b000111 R]
  | .or R r => [opHalf r 0b001000 R]
  | .xor R r => [opHalf r 0b001001 R]
  | .and R r => [opHalf r 0b001010 R]
  | .tst R r => [opHalf r 0b001011 R]
  | .subr R r => [opHalf r 0b001100 R]
  | .sub R r => [opHalf r 0b001101 R]
  | .add R r => [opHalf r 0b001110 R]
  | .cmp R r => [opHalf r 0b001111 R]
  | .movImm5 i r => [opHalf r 0b010000 i]
  | .sataddImm5 i r => [opHalf r 0b010001 i]
  | .addImm5 i r => [opHalf r 0b010010 i]
  | .cmpImm5 i r => [opHalf r 0b010011 i]
  | .callt i => [cat2 0b0000001000#10 i]
  | .shrImm5 i r => [opHalf r 0b010100 i]
  | .sarImm5 i r => [opHalf r 0b010101 i]
  | .shlImm5 i r => [opHalf r 0b010110 i]
  | .mulhImm5 i r => [opHalf r 0b010111 i]
  | .jrDisp32 d => [0x02E0, cat2 (d.extractLsb' 0 15) 0b0#1, d.extractLsb' 15 16]
  | .jarlDisp32 d R => [opHalf 0 0b010111 R, cat2 (d.extractLsb' 0 15) 0b0#1, d.extractLsb' 15 16]
  | .sldB d r => [cat3 r 0b0110#4 d]
  | .sstB r d => [cat3 r 0b0111#4 d]
  | .sldH d r => [cat3 r 0b1000#4 d]
  | .sstH r d => [cat3 r 0b1001#4 d]
  | .sldW d r => [cat4 r 0b1010#4 d 0b0#1]
  | .sstW r d => [cat4 r 0b1010#4 d 0b1#1]
  | .bcond cc d => [cat4 (d.extractLsb' 3 5) 0b1011#4 (d.extractLsb' 0 3) (condBits cc)]
  | .addi i R r => [opHalf r 0b110000 R, i]
  | .movImm32 i R => [opHalf 0 0b110001 R, i.extractLsb' 0 16, i.extractLsb' 16 16]
  | .movea i R r => [opHalf r 0b110001 R, i]
  | .movhi i R r => [opHalf r 0b110010 R, i]
  | .satsubi i R r => [opHalf r 0b110011 R, i]
  | .dispose i l => [stackHalf 0b11001 i l, listHalf l 0b00000]
  | .disposeJmp i l R => [stackHalf 0b11001 i l, listHalf l R]
  | .ori i R r => [opHalf r 0b110100 R, i]
  | .xori i R r => [opHalf r 0b110101 R, i]
  | .andi i R r => [opHalf r 0b110110 R, i]
  | .mulhi i R r => [opHalf r 0b110111 R, i]
  | .jmpDisp32 d R => [opHalf 0 0b110111 R, cat2 (d.extractLsb' 0 15) 0b0#1, d.extractLsb' 15 16]
  | .ldB d R r => [opHalf r 0b111000 R, d]
  | .ldH d R r => [opHalf r 0b111001 R, cat2 d 0b0#1]
  | .ldW d R r => [opHalf r 0b111001 R, cat2 d 0b1#1]
  | .stB r d R => [opHalf r 0b111010 R, d]
  | .stH r d R => [opHalf r 0b111011 R, cat2 d 0b0#1]
  | .stW r d R => [opHalf r 0b111011 R, cat2 d 0b1#1]
  | .prepare l i => [stackHalf 0b11110 i l, listHalf l 0b00001]
  | .prepareSp l i => [stackHalf 0b11110 i l, listHalf l 0b00011]
  | .prepareImm16 l i m => [stackHalf 0b11110 i l, listHalf l 0b01011, m]
  | .prepareImm16Hi l i m => [stackHalf 0b11110 i l, listHalf l 0b10011, m]
  | .prepareImm32 l i m => [stackHalf 0b11110 i l, listHalf l 0b11011, m.extractLsb' 0 16, m.extractLsb' 16 16]
  | .ldBDisp23 d R w => [opHalf 0 0b111100 R, cat3 w (d.extractLsb' 0 7) 0b0101#4, d.extractLsb' 7 16]
  | .ldHDisp23 d R w => [opHalf 0 0b111100 R, cat3 w (d.extractLsb' 0 6) 0b00111#5, d.extractLsb' 6 16]
  | .ldWDisp23 d R w => [opHalf 0 0b111100 R, cat3 w (d.extractLsb' 0 6) 0b01001#5, d.extractLsb' 6 16]
  | .stBDisp23 w d R => [opHalf 0 0b111100 R, cat3 w (d.extractLsb' 0 7) 0b1101#4, d.extractLsb' 7 16]
  | .stWDisp23 w d R => [opHalf 0 0b111100 R, cat3 w (d.extractLsb' 0 6) 0b01111#5, d.extractLsb' 6 16]
  | .ldBuDisp23 d R w => [opHalf 0 0b111101 R, cat3 w (d.extractLsb' 0 7) 0b0101#4, d.extractLsb' 7 16]
  | .ldHuDisp23 d R w => [opHalf 0 0b111101 R, cat3 w (d.extractLsb' 0 6) 0b00111#5, d.extractLsb' 6 16]
  | .stHDisp23 w d R => [opHalf 0 0b111101 R, cat3 w (d.extractLsb' 0 6) 0b01101#5, d.extractLsb' 6 16]
  | .jrDisp22 d => [cat2 0b0000011110#10 (d.extractLsb' 15 6), cat2 (d.extractLsb' 0 15) 0b0#1]
  | .jarlDisp22 d r => [cat3 r 0b11110#5 (d.extractLsb' 15 6), cat2 (d.extractLsb' 0 15) 0b0#1]
  | .ldBu d R r => [cat4 r 0b11110#5 (d.extractLsb' 0 1) R, cat2 (d.extractLsb' 1 15) 0b1#1]
  | .set1 b d R => [cat4 0b00#2 b 0b111110#6 R, d]
  | .not1 b d R => [cat4 0b01#2 b 0b111110#6 R, d]
  | .clr1 b d R => [cat4 0b10#2 b 0b111110#6 R, d]
  | .tst1 b d R => [cat4 0b11#2 b 0b111110#6 R, d]
  | .ldHu d R r => [opHalf r 0b111111 R, cat2 d 0b1#1]
  | .setf cc r => [cat3 r 0b1111110#7 (condBits cc), 0x0000]
  | .rieImm i m => [cat3 i 0b1111111#7 m, 0x0000]
  | .ldsr R r => [opHalf r 0b111111 R, 0x0020]
  | .stsr R r => [opHalf r 0b111111 R, 0x0040]
  | .shr R r => [opHalf r 0b111111 R, 0x0080]
  | .shr3 R r w => [opHalf r 0b111111 R, cat3 w 0b000100#6 0b00010#5]
  | .sar R r => [opHalf r 0b111111 R, 0x00A0]
  | .sar3 R r w => [opHalf r 0b111111 R, cat3 w 0b000101#6 0b00010#5]
  | .shl R r => [opHalf r 0b111111 R, 0x00C0]
  | .shl3 R r w => [opHalf r 0b111111 R, cat3 w 0b000110#6 0b00010#5]
  | .set1Reg r R => [opHalf r 0b111111 R, 0x00E0]
  | .not1Reg r R => [opHalf r 0b111111 R, 0x00E2]
  | .clr1Reg r R => [opHalf r 0b111111 R, 0x00E4]
  | .tst1Reg r R => [opHalf r 0b111111 R, 0x00E6]
  | .caxi R r w => [opHalf r 0b111111 R, cat3 w 0b000111#6 0b01110#5]
  | .trap v => [opHalf 0 0b111111 v, 0x0100]
  | .halt => [0x07E0, 0x0120]
  | .reti => [0x07E0, 0x0140]
  | .ctret => [0x07E0, 0x0144]
  | .eiret => [0x07E0, 0x0148]
  | .feret => [0x07E0, 0x014A]
  | .di => [0x07E0, 0x0160]
  | .ei => [0x87E0, 0x0160]
  | .syscall v => [opHalf 0b11010 0b111111 (v.extractLsb' 0 5), cat4 0b00#2 (v.extractLsb' 5 3) 0b001011#6 0b00000#5]
  | .sasf cc r => [cat3 r 0b1111110#7 (condBits cc), 0x0200]
  | .mul R r w => [opHalf r 0b111111 R, cat3 w 0b010001#6 0b00000#5]
  | .mulu R r w => [opHalf r 0b111111 R, cat3 w 0b010001#6 0b00010#5]
  | .mulImm9 i r w => [opHalf r 0b111111 (i.extractLsb' 0 5), cat4 w 0b01001#5 (i.extractLsb' 5 4) 0b00#2]
  | .muluImm9 i r w => [opHalf r 0b111111 (i.extractLsb' 0 5), cat4 w 0b01001#5 (i.extractLsb' 5 4) 0b10#2]
  | .divh3 R r w => [opHalf r 0b111111 R, cat3 w 0b010100#6 0b00000#5]
  | .divhu R r w => [opHalf r 0b111111 R, cat3 w 0b010100#6 0b00010#5]
  | .div R r w => [opHalf r 0b111111 R, cat3 w 0b010110#6 0b00000#5]
  | .divu R r w => [opHalf r 0b111111 R, cat3 w 0b010110#6 0b00010#5]
  | .divq R r w => [opHalf r 0b111111 R, cat3 w 0b010111#6 0b11100#5]
  | .divqu R r w => [opHalf r 0b111111 R, cat3 w 0b010111#6 0b11110#5]
  | .cmovImm5 cc i r w => [opHalf r 0b111111 i, cat4 w 0b011000#6 (condBits cc) 0b0#1]
  | .cmov cc R r w => [opHalf r 0b111111 R, cat4 w 0b011001#6 (condBits cc) 0b0#1]
  | .bsw r w => [opHalf r 0b111111 0, cat3 w 0b011010#6 0b00000#5]
  | .bsh r w => [opHalf r 0b111111 0, cat3 w 0b011010#6 0b00010#5]
  | .hsw r w => [opHalf r 0b111111 0, cat3 w 0b011010#6 0b00100#5]
  | .hsh r w => [opHalf r 0b111111 0, cat3 w 0b011010#6 0b00110#5]
  | .sch0r r w => [opHalf r 0b111111 0, cat3 w 0b011011#6 0b00000#5]
  | .sch1r r w => [opHalf r 0b111111 0, cat3 w 0b011011#6 0b00010#5]
  | .sch0l r w => [opHalf r 0b111111 0, cat3 w 0b011011#6 0b00100#5]
  | .sch1l r w => [opHalf r 0b111111 0, cat3 w 0b011011#6 0b00110#5]
  | .sbf cc R r w => [opHalf r 0b111111 R, cat4 w 0b011100#6 (condBits cc) 0b0#1]
  | .satsub3 R r w => [opHalf r 0b111111 R, cat3 w 0b011100#6 0b11010#5]
  | .adf cc R r w => [opHalf r 0b111111 R, cat4 w 0b011101#6 (condBits cc) 0b0#1]
  | .satadd3 R r w => [opHalf r 0b111111 R, cat3 w 0b011101#6 0b11010#5]
  | .mac R r w m => [opHalf r 0b111111 R, cat5 w 0b0#1 0b011110#6 m 0b0#1]
  | .macu R r w m => [opHalf r 0b111111 R, cat5 w 0b0#1 0b011111#6 m 0b0#1]

/-- The two bytes of a halfword, the low one first (R108). -/
def halfBytes (h : Half) : List Byte := [h.extractLsb' 0 8, h.extractLsb' 8 8]

/-- The bytes of a well-formed instruction in memory order. -/
def encodeBytes (i : Instr) : List Byte := (encode i).flatMap halfBytes

/-- The 8 bytes in memory of an instruction whose bits are w, numbered as spec/opcode_table.json numbers them; every bit
from nbits on is 0. -/
def tableWordBytes (nbits w : Nat) : List Byte :=
  (List.range 8).map fun k => BitVec.ofNat 8 (w % 2 ^ nbits / 2 ^ (8 * k))

/-- The instruction that the decoder reads from the bits w of a table row. -/
def decodeTableWord (nbits w : Nat) : Option Instr :=
  match decode (tableWordBytes nbits w) with
  | .instr i _ => some i
  | .rejected _ => none

end Sys2Proof
end

