-- ==== Sys2Proof/Config.lean ====
section
/-! DEFINITION. What an implementation fixes (00_scope.md R8, 92_eei_decisions.md section 2), what the platform tells the
core, what the core tells the platform, and the free values that the spec leaves undefined. -/

namespace Sys2Proof

/-- A free value: the word that the spec calls undefined at the n-th use (R399, U2, U9). It has no body, so nothing is
known of it (log 7, log 10, log 15). -/
opaque Config.freeWord : Nat → BitVec 32

/-- A free value: what the platform answers to the n-th event when no answer of it is left (R121). It has no body (log 43). -/
opaque Config.ioWord : Nat → BitVec 32

/-- A free value: the flag bit that the spec calls undefined at the n-th use (R399). It has no body (log 7, log 8). -/
opaque Config.freeBit : Nat → Bool

/-- One row of the product's coprocessor opcodes (R195, R509, D17, log 23): a code c, its halfwords from bit 0 on (R170) and 0
beyond its length, with `c AND mask = value` raises UCPOP with the cause code 530H + code. -/
structure CoprocRow where
  mask  : BitVec 64
  value : BitVec 64
  code  : Fin 8
  deriving DecidableEq, Repr

/-- One row of the product's reserved_opcode_behaviour (R8, R193, U15, log 22): a reserved code c, its halfwords from bit 0 on
and 0 beyond its length, with `c AND mask = value` acts as the instruction whose code is `(c AND keep) OR put`. -/
structure ReservedRow where
  mask  : BitVec 64
  value : BitVec 64
  keep  : BitVec 64
  put   : BitVec 64
  deriving DecidableEq, Repr

/-- A range of addresses, both ends included, at which the platform answers every access itself: a device, a ROM, a hole
(R121, D4, log 3). -/
structure IoRegion where
  first : BitVec 32
  last  : BitVec 32
  deriving DecidableEq, Repr

/-- The exception as which the platform reports the error of an access: SYSERR or MEP, with its cause (R120(3), R122). -/
inductive AccessError where
  | syserr (k : Fin 4)
  | mep (k : Fin 4)
  deriving DecidableEq, Repr

/-- What the platform answers to one access: the value of a read, and the error that it reports, if it does (R121, R122). -/
structure Answer where
  value : BitVec 32
  error : Option AccessError
  deriving DecidableEq, Repr

/-- The parameters that a product fixes and no step changes (R8, log 4). -/
structure Product where
  /-- RESET_ADDRESS; only bits 25-13 count (R61). -/
  resetAddress : BitVec 32
  /-- EH_BASE_RESET; only bits 25-13 count (R62, D9). -/
  ehBaseReset : BitVec 32
  /-- EH_CFG_RESET; only bit 0 (RINT) counts (R60, D9). -/
  ehCfgReset : BitVec 32
  /-- protection_present (R140, R563, D1). -/
  protectionPresent : Bool
  /-- imp_delay: how many instructions a change of PSW.IMP by LDSR lags (R621, U13). -/
  impDelay : Nat
  /-- coprocessor_opcode and ucpop_code (D17). -/
  coproc : List CoprocRow
  /-- reserved_opcode_behaviour: the reserved codes that act as an instruction; every other raises RIE (R193, D16). -/
  reserved : List ReservedRow
  /-- Mem: where the platform answers; every other address is a byte of plain memory (R121, D4). -/
  io : List IoRegion
  deriving DecidableEq, Repr

/-- The defaults that the spec takes (92_eei_decisions.md section 2). -/
def Product.default : Product :=
  { resetAddress := 0, ehBaseReset := 0, ehCfgReset := 0, protectionPresent := true, impDelay := 0, coproc := []
    reserved := [], io := [] }

/-- What the platform presents to the core at one step (D2, R505, R506, R508, log 5). -/
structure Sample where
  reset  : Bool
  fenmi  : Bool
  feint  : Bool
  int    : Option (Fin 256)
  syserr : Option (Fin 4)
  mep    : Option (Fin 4)
  deriving DecidableEq, Repr

/-- The platform presents nothing. -/
def Sample.none : Sample :=
  { reset := false, fenmi := false, feint := false, int := .none, syserr := .none, mep := .none }

/-- What the core tells the platform: the output events of D2 (log 6), and every access at an address of the platform in
program order (R121, R130, log 43). -/
inductive Event where
  /-- An interrupt with this cause code was accepted (R521, R522, R523). -/
  | ack (code : BitVec 32)
  /-- A handler has ended (R541). -/
  | eoi
  /-- A read of 1, 2 or 4 bytes. -/
  | busRead (addr : BitVec 32) (size : Nat)
  /-- A write of the low 1, 2 or 4 bytes of the value. -/
  | busWrite (addr : BitVec 32) (size : Nat) (value : BitVec 32)
  /-- The fetch of a halfword of an instruction (R123). -/
  | busFetch (addr : BitVec 32)
  deriving DecidableEq, Repr

end Sys2Proof
end

