-- ==== Sys2Proof/Machine/Bits.lean ====
section
/-! DEFINITION. Bit fields of words: the masks that the spec applies to addresses held in registers, and one bit of a
word. -/

namespace Sys2Proof.Machine

/-- sext_26(v[25:0]): what EIPC, FEPC and CTPC store (10_state.md R31, R33, R49). -/
def sext26 (v : Word) : Word := (v.extractLsb' 0 26).signExtend 32

/-- pcmask(v) = sext_26(v[25:1] : 0): applied on every write of the PC (R24). -/
def pcmask (v : Word) : Word := (v.extractLsb' 1 25 ++ 0#1).signExtend 32

/-- Bits 12-0 zero, bits 31-26 the copy of bit 25: EH_RESET, EH_BASE (R61, R62). -/
def baseMask (v : Word) : Word := (v.extractLsb' 13 13 ++ 0#13).signExtend 32

/-- v with bit i set to b. -/
def setBit (v : Word) (i : Nat) (b : Bool) : Word :=
  if b then v ||| (1#32 <<< i) else v &&& ~~~(1#32 <<< i)

/-- addr AND FFFFFFFCH: the word address of CAXI, PREPARE and DISPOSE (R454, R465, R457). -/
def wordAlign (a : Word) : Word := a &&& 0xFFFFFFFC#32

/-- One byte k (0-3) of a word, byte 0 the lowest. -/
def byteOf (v : Word) (k : Nat) : Byte := v.extractLsb' (8 * k) 8

/-- The low halfword. -/
def lowHalf (v : Word) : Half := v.extractLsb' 0 16

/-- The high halfword. -/
def highHalf (v : Word) : Half := v.extractLsb' 16 16

end Sys2Proof.Machine
end

