-- ==== Sys2Proof/Machine/State.lean ====
section
/-! DEFINITION. The state of the V850E2S as plain data (10_state.md, 20_memory.md) and its value after reset (R78, R600). -/

namespace Sys2Proof.Machine

/-- Why a step stops with a fault: never. Every exception of the V850E2S is taken by the machine as a next state, and no
address of the 32-bit space is said not to exist (INVENTORY.md, Faults). -/
inductive Fault where
  deriving DecidableEq, Repr

/-- Why a step is refused. -/
inductive Refusal where
  /-- Raised by exec for an instruction that has no meaning yet; the argument is its mnemonic. Safe: the run stops. -/
  | notModelled (mnemonic : String)
  deriving DecidableEq, Repr

/-- The system registers, each once, whatever banks show it (R26-R75). PSW stands in `State`. -/
structure SysRegs where
  /-- EIPC, FEPC, CTPC: return PCs (R31, R33, R49). -/
  eipc : Word
  /-- EIPSW (R32). -/
  eipsw : Word
  /-- FEPC (R33). -/
  fepc : Word
  /-- FEPSW (R34). -/
  fepsw : Word
  /-- ECR: FECC in bits 31-16, EICC in bits 15-0 (R35). -/
  ecr : Word
  /-- SCCFG: SIZE in bits 7-0 (R45). -/
  sccfg : Word
  /-- SCBP (R46). -/
  scbp : Word
  /-- EIIC (R47). -/
  eiic : Word
  /-- FEIC (R48). -/
  feic : Word
  /-- DBIC, debug function (R53). -/
  dbic : Word
  /-- CTPC (R49). -/
  ctpc : Word
  /-- CTPSW (R50). -/
  ctpsw : Word
  /-- DBPC, debug function (R53). -/
  dbpc : Word
  /-- DBPSW, debug function (R53). -/
  dbpsw : Word
  /-- CTBP (R51). -/
  ctbp : Word
  /-- DIR, debug function (R53). -/
  dir : Word
  /-- The debug registers numbered 22-27 (R30, R53). -/
  dbg : Vector Word 6
  /-- EIWR (R52). -/
  eiwr : Word
  /-- FEWR (R52). -/
  fewr : Word
  /-- DBWR, debug function (R53). -/
  dbwr : Word
  /-- BSEL (R28). -/
  bsel : Word
  /-- SW_CTL (R55, R56). -/
  swCtl : Word
  /-- SW_CFG (R55, R56). -/
  swCfg : Word
  /-- SW_BASE (R55, R56). -/
  swBase : Word
  /-- EH_CFG: RINT in bit 0 (R60). -/
  ehCfg : Word
  /-- EH_RESET (R61). -/
  ehReset : Word
  /-- EH_BASE (R62). -/
  ehBase : Word
  /-- MPM: MPE in bit 0, AUE in bit 1 (R65). -/
  mpm : Word
  /-- MPC (R66). -/
  mpc : Word
  /-- TID (R67). -/
  tid : Word
  /-- PA0L-PA3L (R68). -/
  paL : Vector Word 4
  /-- PA0U-PA3U (R69). -/
  paU : Vector Word 4
  /-- VMECR (R70). -/
  vmecr : Word
  /-- VMTID (R71). -/
  vmtid : Word
  /-- VMADR (R72). -/
  vmadr : Word
  /-- VSECR (R73). -/
  vsecr : Word
  /-- VSTID (R74). -/
  vstid : Word
  /-- VSADR (R75). -/
  vsadr : Word
  deriving DecidableEq, Repr

/-- The machine. -/
structure State where
  /-- r0-r31 (R20); the operations on registers keep r0 at 0 (R21). -/
  gr : Vector Word 32
  /-- PC (R23, R24). -/
  pc : Word
  /-- PSW (R36). -/
  psw : Word
  /-- The other system registers. -/
  sys : SysRegs
  /-- Plain memory: the bytes that are not 00H, addresses strictly rising (R100, R121, log 3). -/
  mem : List Host.Cell
  /-- HALT mode (R77(a), R462). -/
  halted : Bool
  /-- PSW.IMP as the fetch still sees it while impLag is not 0 (R621, log 19). -/
  impOld : Bool
  /-- How many instructions still run under impOld (R621, U13, log 19). -/
  impLag : Nat
  /-- The platform's samples still to come, one a step; when there are none, nothing is requested (D2, log 5). -/
  inputs : List Sample
  /-- The platform's answers still to come, one for each access at an address of the platform (R121, log 43). -/
  answers : List Answer
  /-- The events sent to the platform, the newest first (R77(b), log 6). -/
  events : List Event
  /-- The model's own counter of free values already used (log 7). -/
  free : Nat
  /-- The model's own copy of the product's parameters (R8, log 4); no step changes it. -/
  product : Product
  deriving DecidableEq, Repr

/-- What one instruction or one step answers. -/
abbrev Result : Type := Host.Outcome State Fault Refusal

/-- The names of the system registers (R26-R75). `dbg n` is main bank number 22 + n. -/
inductive SysReg where
  | eipc | eipsw | fepc | fepsw | ecr | psw | sccfg | scbp | eiic | feic | dbic | ctpc | ctpsw | dbpc | dbpsw | ctbp | dir
  | dbg (n : Fin 6)
  | eiwr | fewr | dbwr | bsel
  | swCtl | swCfg | swBase | ehCfg | ehReset | ehBase
  | mpm | mpc | tid
  | paL (n : Fin 4)
  | paU (n : Fin 4)
  | vmecr | vmtid | vmadr | vsecr | vstid | vsadr
  deriving DecidableEq, Repr

/-- The system registers after reset (R78, R600). The values that R78 calls undefined are 0 (log 2). -/
def SysRegs.reset (p : Product) : SysRegs :=
  { eipc := 0, eipsw := 0x20, fepc := 0, fepsw := 0x20, ecr := 0, sccfg := 0, scbp := 0, eiic := 0, feic := 0, dbic := 0
    ctpc := 0, ctpsw := 0x20, dbpc := 0, dbpsw := 0, ctbp := 0, dir := 0, dbg := Vector.replicate 6 0
    eiwr := 0, fewr := 0, dbwr := 0, bsel := 0
    swCtl := 0, swCfg := 0, swBase := 0
    ehCfg := p.ehCfgReset &&& 1, ehReset := baseMask p.resetAddress, ehBase := baseMask p.ehBaseReset
    mpm := 0, mpc := 0, tid := 0, paL := Vector.replicate 4 0, paU := Vector.replicate 4 0
    vmecr := 0, vmtid := 0, vmadr := 0, vsecr := 0, vstid := 0, vsadr := 0 }

/-- The machine right after reset, with the spec's default parameters: PSW = 00000020H, PC = EH_RESET (R600, R601), r1-r31
at 0 (log 1), nothing in memory (log 3), nothing requested (R78). -/
def State.reset : State :=
  { gr := Vector.replicate 32 0, pc := (SysRegs.reset Product.default).ehReset, psw := 0x20
    sys := SysRegs.reset Product.default, mem := [], halted := false, impOld := false, impLag := 0
    inputs := [], answers := [], events := [], free := 0, product := Product.default }

end Sys2Proof.Machine
end

