-- ==== Sys2Proof/Machine/Ops.lean ====
section
/-! DEFINITION. The named operations of the machine: registers and PC, PSW bits, memory, memory protection, taking an
exception, returning from one, reset. Every meaning is written over these. -/

namespace Sys2Proof.Machine

/-! ## General registers and the PC -/

/-- GR[r]: r0 reads as 0 (R21). -/
def State.readReg (s : State) (r : Reg) : Word :=
  if r = 0 then 0 else s.gr[r.toNat]'r.isLt

/-- GR[r] <- v: a write to r0 is discarded (R21). -/
def State.writeReg (s : State) (r : Reg) (v : Word) : State :=
  if r = 0 then s else { s with gr := s.gr.set r.toNat v r.isLt }

/-- The stack pointer's number, r3 (R22). -/
def spReg : Reg := 3

/-- The element pointer's number, r30 (R22). -/
def epReg : Reg := 30

/-- pc <- v, always through pcmask (R24). -/
def State.setPc (s : State) (v : Word) : State := { s with pc := pcmask v }

/-- The instruction of n bytes does not branch: pc <- pc + n (R25). -/
def State.advance (s : State) (n : Nat) : State := s.setPc (s.pc + BitVec.ofNat 32 n)

/-! ## PSW and MPM bits -/

/-- The PSW with one bit written. -/
def State.setPswBit (s : State) (i : Nat) (b : Bool) : State := { s with psw := setBit s.psw i b }

/-- PSW.Z (R37). -/
def State.flagZ (s : State) : Bool := s.psw.getLsbD 0

/-- PSW.S (R37). -/
def State.flagS (s : State) : Bool := s.psw.getLsbD 1

/-- PSW.OV (R37). -/
def State.flagOV (s : State) : Bool := s.psw.getLsbD 2

/-- PSW.CY (R37). -/
def State.flagCY (s : State) : Bool := s.psw.getLsbD 3

/-- PSW.SAT (R38). -/
def State.flagSAT (s : State) : Bool := s.psw.getLsbD 4

/-- PSW.ID (R39). -/
def State.pswID (s : State) : Bool := s.psw.getLsbD 5

/-- PSW.EP (R40). -/
def State.pswEP (s : State) : Bool := s.psw.getLsbD 6

/-- PSW.NP (R41). -/
def State.pswNP (s : State) : Bool := s.psw.getLsbD 7

/-- PSW.IMP (R42). -/
def State.pswIMP (s : State) : Bool := s.psw.getLsbD 16

/-- PSW.DMP (R42). -/
def State.pswDMP (s : State) : Bool := s.psw.getLsbD 17

/-- PSW.NPV (R42). -/
def State.pswNPV (s : State) : Bool := s.psw.getLsbD 18

/-- MPM as it acts: 0 in a product without the protection function (R563, D1, log 33). -/
def State.mpm (s : State) : Word := if s.product.protectionPresent then s.sys.mpm else 0

/-- MPM.MPE (R65). -/
def State.mpe (s : State) : Bool := s.mpm.getLsbD 0

/-- MPM.AUE (R65). -/
def State.aue (s : State) : Bool := s.mpm.getLsbD 1

/-- The PSW that the word v gives where MPM holds m: bits 7-0 and 11-9 as they are; IMP and DMP only when MPE = 1, NPV only
when AUE = 1 too; every other bit 0 (R42(a), (b), R451; U7, log 13; bits 11-9 log 14). -/
def legalPsw (m v : Word) : Word :=
  (v &&& 0x00000EFF#32)
    ||| (if m.getLsbD 0 then v &&& 0x00030000#32 else 0)
    ||| (if m.getLsbD 0 && m.getLsbD 1 then v &&& 0x00040000#32 else 0)

/-- The IMP bit under which the next instruction is fetched: the old one while a change by LDSR still lags (R621, U13,
log 19). -/
def State.impInForce (s : State) : Bool := if s.impLag = 0 then s.pswIMP else s.impOld

/-- One more instruction has been fetched since PSW.IMP changed (R621, log 19). -/
def State.tickImp (s : State) : State := { s with impLag := s.impLag - 1 }

/-! ## Memory (R100, R101, R120, R121) -/

/-- What an address with no entry reads as: 00H (log 3). -/
def blankByte : Byte := 0

/-- The byte at an address. -/
def Memory.lookup : List Host.Cell → Nat → Byte
  | [], _ => blankByte
  | c :: m, a => if c.1 = a then c.2 else Memory.lookup m a

/-- The memory with one more entry, in its place among rising addresses. -/
def Memory.insert : List Host.Cell → Nat → Byte → List Host.Cell
  | [], a, b => [(a, b)]
  | c :: m, a, b => if a < c.1 then (a, b) :: c :: m else c :: Memory.insert m a b

/-- The memory without the entries for an address. -/
def Memory.erase : List Host.Cell → Nat → List Host.Cell
  | [], _ => []
  | c :: m, a => if c.1 = a then Memory.erase m a else c :: Memory.erase m a

/-- The memory after a byte is written: the byte that an address with no entry reads as leaves no entry. -/
def Memory.write (m : List Host.Cell) (a : Nat) (b : Byte) : List Host.Cell :=
  if b = blankByte then Memory.erase m a else Memory.insert (Memory.erase m a) a b

/-- The canonical form: addresses from lo on, strictly rising, below 2^32, and no entry that reads as a missing one. -/
def Memory.wfFrom : Nat → List Host.Cell → Bool
  | _, [] => true
  | lo, c :: m => decide (lo ≤ c.1) && decide (c.1 < 2 ^ 32) && (c.2 != blankByte) && Memory.wfFrom (c.1 + 1) m

/-- The canonical form of a memory. -/
def Memory.wf (m : List Host.Cell) : Bool := Memory.wfFrom 0 m

/-- The byte of plain memory at a 32-bit address. -/
def State.read8 (s : State) (a : Word) : Byte := Memory.lookup s.mem a.toNat

/-- A byte of plain memory is written. -/
def State.write8 (s : State) (a : Word) (b : Byte) : State := { s with mem := Memory.write s.mem a.toNat b }

/-- A halfword of plain memory is written, little-endian, addresses modulo 2^32 (R101, R120, D5, log 26). -/
def State.write16 (s : State) (a : Word) (v : Word) : State :=
  (s.write8 a (byteOf v 0)).write8 (a + 1) (byteOf v 1)

/-- A word of plain memory is written, little-endian, addresses modulo 2^32 (R101, R120, D5, log 26). -/
def State.write32 (s : State) (a : Word) (v : Word) : State :=
  (((s.write8 a (byteOf v 0)).write8 (a + 1) (byteOf v 1)).write8 (a + 2) (byteOf v 2)).write8 (a + 3) (byteOf v 3)

/-! ## The platform behind the bus (R121, R122, D4) -/

/-- The platform answers at the address: it is no byte of plain memory (log 3). -/
def State.isIo (s : State) (a : Word) : Bool :=
  s.product.io.any fun g => decide (g.first.toNat ≤ a.toNat) && decide (a.toNat ≤ g.last.toNat)

/-- The platform answers at one of the n bytes from a on. -/
def State.anyIo (s : State) (a : Word) (n : Nat) : Bool :=
  (List.range n).any fun k => s.isIo (a + BitVec.ofNat 32 k)

/-- What the platform answers to the next access: a free value and no error when no answer is left (log 43). -/
def State.answer (s : State) : Answer := s.answers.headD { value := Config.ioWord s.events.length, error := none }

/-- The platform sees the access and its answer is used up. -/
def State.note (s : State) (e : Event) : State := { s with answers := s.answers.tail, events := e :: s.events }

/-! ## One bus cycle (R110) -/

/-- The low n bytes of a word. -/
def lowBytes (n : Nat) (v : Word) : Word := (v.extractLsb' 0 (8 * n)).setWidth 32

/-- The state after one read cycle of n bytes. -/
def State.readCycle (s : State) (a : Word) (n : Nat) : State := if s.anyIo a n then s.note (.busRead a n) else s

/-- Byte k of what one read cycle of n bytes gives. -/
def State.cycleByte (s : State) (a : Word) (n k : Nat) : Byte :=
  if s.anyIo a n then byteOf s.answer.value k else s.read8 (a + BitVec.ofNat 32 k)

/-- One write cycle of n bytes, n = 1, 2 or 4. -/
def State.writeCycle (s : State) (a : Word) (n : Nat) (v : Word) : State :=
  if s.anyIo a n then s.note (.busWrite a n (lowBytes n v))
  else
    match n with
    | 1 => s.write8 a (byteOf v 0)
    | 2 => s.write16 a v
    | _ => s.write32 a v

/-- The error that the platform reports for one cycle of n bytes, read or written (R121, R122). -/
def State.cycleError (s : State) (a : Word) (n : Nat) : Option AccessError :=
  if s.anyIo a n then s.answer.error else none

/-- How many of n cycles are made when the first one with an error is the last (log 43). -/
def cyclesUntil (error : Nat → Bool) (n : Nat) : Nat := min ((List.range n).findIdx error + 1) n

/-! ## MemRead and MemWrite after their check (R110, R120, D6, log 26): an aligned access is one cycle, a misaligned one a
cycle for each byte in ascending address order, up to the first for which the platform reports an error -/

/-- The state after byte cycles that read k bytes from a on. -/
def State.byteReads (s : State) (a : Word) (k : Nat) : State :=
  (List.range k).foldl (fun u j => u.readCycle (a + BitVec.ofNat 32 j) 1) s

/-- The state after byte cycles that write k bytes of v from a on. -/
def State.byteWrites (s : State) (a v : Word) (k : Nat) : State :=
  (List.range k).foldl (fun u j => u.writeCycle (a + BitVec.ofNat 32 j) 1 ((byteOf v j).setWidth 32)) s

/-- The error of byte cycle k of a misaligned access, a read or a write, when the cycles before it had none. -/
def State.byteError (s : State) (a : Word) (k : Nat) : Option AccessError :=
  (s.byteReads a k).cycleError (a + BitVec.ofNat 32 k) 1

/-- The error that the platform reports for MemRead(a, n) or MemWrite(a, n, v): that of the first cycle with one (R120(3)). -/
def State.busError (s : State) (a : Word) (n : Nat) : Option AccessError :=
  if a.toNat % n = 0 then s.cycleError a n else (List.range n).findSome? (s.byteError a)

/-- How many byte cycles a misaligned access makes. -/
def State.byteCycles (s : State) (a : Word) (n : Nat) : Nat := cyclesUntil (fun k => (s.byteError a k).isSome) n

/-- The state after MemRead(a, n), with an error or without. -/
def State.afterRead (s : State) (a : Word) (n : Nat) : State :=
  if a.toNat % n = 0 then s.readCycle a n else s.byteReads a (s.byteCycles a n)

/-- Byte k of MemRead(a, n). -/
def State.busByte (s : State) (a : Word) (n k : Nat) : Byte :=
  if a.toNat % n = 0 then s.cycleByte a n k else (s.byteReads a k).cycleByte (a + BitVec.ofNat 32 k) 1 0

/-- MemRead(a, 1). -/
def State.busRead8 (s : State) (a : Word) : Byte := s.busByte a 1 0

/-- MemRead(a, 2), little-endian (R101). -/
def State.busRead16 (s : State) (a : Word) : Half := s.busByte a 2 1 ++ s.busByte a 2 0

/-- MemRead(a, 4), little-endian (R101). -/
def State.busRead32 (s : State) (a : Word) : Word :=
  s.busByte a 4 3 ++ s.busByte a 4 2 ++ s.busByte a 4 1 ++ s.busByte a 4 0

/-- The state after MemWrite(a, n, v). With an error the platform has seen the cycles that were made, and no byte of plain
memory is written (R235(4), log 41). -/
def State.busWrite (s : State) (a : Word) (n : Nat) (v : Word) : State :=
  if a.toNat % n = 0 then s.writeCycle a n v
  else
    match s.busError a n with
    | none => s.byteWrites a v n
    | some _ => { s.byteWrites a v (s.byteCycles a n) with mem := s.mem }

/-! ## Protection areas (R141, R142) -/

/-- A kind of permission of a protection area: X, R, W of PAnU, S of PAnL. -/
inductive Perm where
  | x | r | w | s
  deriving DecidableEq, Repr

/-- The four areas. -/
def areas : List (Fin 4) := [0, 1, 2, 3]

/-- lo(n) = sext_26(PAnL[25:4] : 0000) (R141). -/
def State.areaLo (s : State) (n : Fin 4) : Word := sext26 (s.sys.paL[n] &&& 0xFFFFFFF0#32)

/-- hi(n) = PAnU[31:4] : 1111 (R141). -/
def State.areaHi (s : State) (n : Fin 4) : Word := s.sys.paU[n] ||| 0xF#32

/-- Area n is in force: E = 1 and its setting is valid, compared unsigned (R141, D11, log 34). -/
def State.areaInForce (s : State) (n : Fin 4) : Bool :=
  s.sys.paL[n].getLsbD 0 && decide ((s.areaLo n).toNat ≤ (s.areaHi n).toNat)

/-- Bit K of area n (R68, R69, R142). -/
def State.areaBit (s : State) (k : Perm) (n : Fin 4) : Bool :=
  match k with
  | .x => s.sys.paU[n].getLsbD 0
  | .r => s.sys.paU[n].getLsbD 1
  | .w => s.sys.paU[n].getLsbD 2
  | .s => s.sys.paL[n].getLsbD 1

/-- covers(n, a, b) (R141). -/
def State.covers (s : State) (n : Fin 4) (a b : Nat) : Bool :=
  s.areaInForce n && decide ((s.areaLo n).toNat ≤ a) && decide (b ≤ (s.areaHi n).toNat)

/-- perm(K, a, b): some area in force covers a to b and permits K (R142). -/
def State.perm (s : State) (k : Perm) (a b : Nat) : Bool :=
  areas.any fun n => s.covers n a b && s.areaBit k n

/-- The address lies in the 64 MB space: bits 31-26 equal bit 25 (R102, R150). -/
def inSpace (a : Word) : Bool := sext26 a == a

/-! ## Data accesses (R144 to R147, R552) -/

/-- What an instruction does at an address, as far as protection tells it apart (R144, R552). -/
inductive AccessKind where
  /-- LD, SLD. -/
  | load
  /-- ST, SST. -/
  | store
  /-- The table reads of CALLT and SWITCH. -/
  | table
  /-- TST1. -/
  | bitTest
  /-- SET1, NOT1, CLR1, CAXI: read and write, both checked at the read (R146). -/
  | modify
  /-- PREPARE. -/
  | push
  /-- DISPOSE. -/
  | pop
  deriving DecidableEq, Repr

/-- One data access: its lowest address, its bytes, its kind, and whether it is sp-relative (R147). -/
structure Access where
  addr  : Word
  size  : Nat
  kind  : AccessKind
  spRel : Bool
  deriving DecidableEq, Repr

/-- The permissions that the kind of an access needs (R144(3), R146). -/
def AccessKind.needs : AccessKind → List Perm
  | .load | .table | .bitTest | .pop => [.r]
  | .store | .push => [.w]
  | .modify => [.r, .w]

/-- The permissions that an access needs: those of its kind, and S when it is sp-relative (R144(3), R147). -/
def Access.needs (acc : Access) : List Perm := if acc.spRel then acc.kind.needs ++ [.s] else acc.kind.needs

/-- Not on a halfword or word boundary (R109, R144(4)). -/
def Access.misaligned (acc : Access) : Bool := decide (acc.addr.toNat % acc.size ≠ 0)

/-- The highest byte of the access, not wrapped: no area covers an access that wraps past FFFFFFFFH. -/
def Access.last (acc : Access) : Nat := acc.addr.toNat + acc.size - 1

/-- Every byte lies in the 64 MB space (R144(2), R150). -/
def Access.inSpace (acc : Access) : Bool :=
  (List.range acc.size).all fun k => Machine.inSpace (acc.addr + BitVec.ofNat 32 k)

/-- The areas permit the access: each needed kind in some area when it is aligned (R142, R144(4)); all needed kinds in one
area when it is misaligned (R145, D13, log 34). -/
def State.permits (s : State) (acc : Access) : Bool :=
  acc.inSpace &&
    (if acc.misaligned then
      areas.any fun n => s.covers n acc.addr.toNat acc.last && acc.needs.all fun k => s.areaBit k n
    else acc.needs.all fun k => s.perm k acc.addr.toNat acc.last)

/-- A data protection violation: only while PSW.DMP = 1 (R144). -/
def State.violates (s : State) (acc : Access) : Bool := s.pswDMP && !s.permits acc

/-- The value that an MDP exception writes to VMECR (R552). -/
def Access.vmecr (acc : Access) : Word :=
  (if acc.misaligned && (acc.kind = .load || acc.kind = .store) then 0x40#32 else 0)
    ||| (if acc.kind = .modify then 0x20#32 else 0)
    ||| (if acc.spRel then 0x10#32 else 0)
    ||| (if acc.kind = .store || acc.kind = .push then 0x08#32 else 0x04#32)

/-! ## Taking an exception (R515 to R523, R530, R531) -/

/-- The level of an exception (R503). -/
inductive Level where
  | ei | fe
  deriving DecidableEq, Repr

/-- What the acceptance of an exception needs to know (R501). -/
structure Cause where
  level : Level
  /-- The cause code. -/
  code : Word
  /-- The return PC (R514). -/
  ret : Word
  /-- The address of the handler (R530, R531). -/
  handler : Word
  /-- FENMI, FEINT or INT (R515). -/
  interrupt : Bool
  /-- MIP or MDP: NPV, DMP, IMP are cleared whatever AUE is (R516). -/
  clears : Bool
  deriving DecidableEq, Repr

/-- The PSW after acceptance: ID = 1, EP = 0 for an interrupt and 1 otherwise, NP = 1 at the FE level, and NPV, DMP, IMP
cleared when AUE = 1 or the cause clears them (R515, R516, R517). -/
def State.acceptedPsw (s : State) (c : Cause) : Word :=
  let p := setBit (setBit s.psw 5 true) 6 (!c.interrupt)
  let p := if c.level = .fe then setBit p 7 true else p
  if s.aue || c.clears then setBit (setBit (setBit p 18 false) 17 false) 16 false else p

/-- The registers of the cause's level receive the return PC, the PSW and the code; ECR its half (R518, R520 to R523). -/
def State.savedContext (s : State) (c : Cause) : SysRegs :=
  match c.level with
  | .ei => { s.sys with
      eipc := pcmask c.ret, eipsw := s.psw, eiic := c.code, ecr := highHalf s.sys.ecr ++ lowHalf c.code }
  | .fe => { s.sys with
      fepc := pcmask c.ret, fepsw := s.psw, feic := c.code, ecr := lowHalf c.code ++ lowHalf s.sys.ecr }

/-- TAKING AN EXCEPTION: the one entry sequence of R520 to R523, all assignments from the state before it. The acceptance of
an interrupt is acknowledged (R505); it also ends a lag of PSW.IMP (log 19). -/
def State.take (s : State) (c : Cause) : State :=
  { s with
    sys := s.savedContext c
    psw := s.acceptedPsw c
    pc := pcmask c.handler
    events := if c.interrupt then .ack c.code :: s.events else s.events
    impLag := 0 }

/-- EH_BASE + offset (R530). -/
def State.handlerAt (s : State) (offset : Word) : Word := s.sys.ehBase + offset

/-- The handler of INTn: one slot per channel, or one for all when EH_CFG.RINT = 1 (R531). -/
def State.intHandler (s : State) (n : Fin 256) : Word :=
  if s.sys.ehCfg.getLsbD 0 then s.handlerAt 0x80 else s.handlerAt (0x80 + 0x10 * BitVec.ofNat 32 n.val)

/-- An FE-level exception that is no interrupt, at offset +0030H (R501, R522, R530). -/
def State.feCause (s : State) (code ret : Word) : Cause :=
  { level := .fe, code := code, ret := ret, handler := s.handlerAt 0x30, interrupt := false, clears := false }

/-- FENMI (R507, R522). -/
def State.fenmiCause (s : State) : Cause :=
  { level := .fe, code := 0x20, ret := s.pc, handler := s.handlerAt 0x20, interrupt := true, clears := false }

/-- SYSERR, source k (R506, R522). -/
def State.syserrCause (s : State) (k : Fin 4) : Cause := s.feCause (0x230 + BitVec.ofNat 32 k.val) s.pc

/-- FEINT (R507, R523). -/
def State.feintCause (s : State) : Cause :=
  { level := .fe, code := 0x10, ret := s.pc, handler := s.handlerAt 0x10, interrupt := true, clears := false }

/-- INTn (R501, R521, R531). -/
def State.intCause (s : State) (n : Fin 256) : Cause :=
  { level := .ei, code := 0x80 + 0x10 * BitVec.ofNat 32 n.val, ret := s.pc, handler := s.intHandler n, interrupt := true
    clears := false }

/-- MEP, source k (R508, R522). -/
def State.mepCause (s : State) (k : Fin 4) : Cause := s.feCause (0x330 + BitVec.ofNat 32 k.val) s.pc

/-- UCPOP, code k (R509, R522). -/
def State.ucpopCause (s : State) (k : Fin 8) : Cause := s.feCause (0x530 + BitVec.ofNat 32 k.val) s.pc

/-- RIE: the return PC is the instruction itself (R467, R510). -/
def State.rieCause (s : State) : Cause := s.feCause 0x130 s.pc

/-- FETRAP: the return PC is the next instruction (R461). -/
def State.fetrapCause (s : State) (v : BitVec 4) : Cause := s.feCause (0x30 + v.setWidth 32) (s.pc + 2)

/-- TRAP: vectors 00H-0FH at +0040H, 10H-1FH at +0050H (R474). -/
def State.trapCause (s : State) (v : BitVec 5) : Cause :=
  { level := .ei, code := 0x40 + v.setWidth 32, ret := s.pc + 4
    handler := if v.toNat < 16 then s.handlerAt 0x40 else s.handlerAt 0x50, interrupt := false, clears := false }

/-- The table address of SYSCALL: entry vector8 when it is not above SCCFG.SIZE, else entry 0 (R473, R526). -/
def State.syscallEntry (s : State) (v : BitVec 8) : Word :=
  if v.toNat ≤ (byteOf s.sys.sccfg 0).toNat then s.sys.scbp + (v.setWidth 32 <<< 2) else s.sys.scbp

/-- SYSCALL: the target is SCBP plus the table word, read without any protection check (R149, R473). -/
def State.syscallCause (s : State) (v : BitVec 8) : Cause :=
  { level := .ei, code := 0x8000 + v.setWidth 32, ret := s.pc + 4
    handler := s.sys.scbp + s.busRead32 (s.syscallEntry v), interrupt := false, clears := false }

/-- MIP and MDP (R550, R551). -/
def State.protectionCause (s : State) (code : Word) : Cause :=
  { level := .fe, code := code, ret := s.pc, handler := s.handlerAt 0x30, interrupt := false, clears := true }

/-- VMTID, VMADR and VMECR receive the violation's information (R550, R551). -/
def State.recordMemoryViolation (s : State) (addr cause : Word) : State :=
  { s with sys := { s.sys with vmtid := s.sys.tid, vmadr := addr, vmecr := cause } }

/-- MIP is accepted: VMADR is the PC of the instruction, VMECR.VMX = 1 (R550). -/
def State.takeMip (s : State) : State := (s.recordMemoryViolation s.pc 0x2).take (s.protectionCause 0x430)

/-- MDP is accepted for an access: VMADR is its address (R551, R552). -/
def State.takeMdp (s : State) (acc : Access) : State :=
  (s.recordMemoryViolation acc.addr acc.vmecr).take (s.protectionCause 0x431)

/-- The exception as which the platform reports an error of the instruction's access: the return PC is the instruction
(R506, R508, R514, log 41). -/
def State.errorCause (s : State) : AccessError → Cause
  | .syserr k => s.syserrCause k
  | .mep k => s.mepCause k

/-- The exception of an access error is accepted. -/
def State.takeError (s : State) (e : AccessError) : State := s.take (s.errorCause e)

/-- MemRead(a, n) in an instruction: an error that the platform reports raises its exception in place of the rest, so that no
register and no memory is written; else the rest acts on the state after the read (R120(3), R235(4), log 41). -/
def State.reading (s : State) (a : Word) (n : Nat) (rest : State → State) : State :=
  match s.busError a n with
  | some e => (s.afterRead a n).takeError e
  | none => rest (s.afterRead a n)

/-- MemWrite(a, n, v) in an instruction, likewise. -/
def State.writing (s : State) (a : Word) (n : Nat) (v : Word) (rest : State → State) : State :=
  match s.busError a n with
  | some e => (s.busWrite a n v).takeError e
  | none => rest (s.busWrite a n v)

/-- An access that the protection permits has its effect; one that violates it raises MDP and has none (R120, R151). -/
def State.access (s : State) (acc : Access) (done : State) : State :=
  if s.violates acc then s.takeMdp acc else done

/-! ## Returning (R451, R540, R541) -/

/-- pc <- ret; PSW <- psw_restore(v). The new PSW applies from the instruction at the return address on, so a lag of PSW.IMP
ends (R451, R621, log 19). -/
def State.restore (s : State) (ret v : Word) : State :=
  { s with pc := pcmask ret, psw := legalPsw s.mpm v, impLag := 0 }

/-- The end-of-handler notification, made only while PSW.EP = 0 (R541). -/
def State.notifyEnd (s : State) : State :=
  if s.pswEP then s else { s with events := .eoi :: s.events }

/-! ## Reset (R600, R601, R524) -/

/-- What a reset does: every register takes its value after reset, HALT mode ends, execution starts at EH_RESET. Memory, the
events already sent and the samples and answers still to come are the platform's (R603, log 39). -/
def State.resetFrom (s : State) : State :=
  { s with
    gr := Vector.replicate 32 0
    pc := pcmask (SysRegs.reset s.product).ehReset
    psw := 0x20
    sys := SysRegs.reset s.product
    halted := false
    impOld := false
    impLag := 0 }

end Sys2Proof.Machine
end

