-- ==== Sys2Proof/Machine/Flags.lean ====
section
/-! DEFINITION. Every flag computation of the spec: addition and subtraction with carry or borrow (R293, R294), saturation
(R310), logic (R338), shifts (R365), swaps (R367), bit search (R374), division (R398), and the condition codes (R13). -/

namespace Sys2Proof.Machine

/-- The four arithmetic flags. -/
structure Flags where
  cy : Bool
  ov : Bool
  s  : Bool
  z  : Bool
  deriving DecidableEq, Repr

/-- An unbounded result that does not fit in 32 bits as a signed number (R293, R294, R310). -/
def outOfRange (e : Int) : Bool := decide (e < -2 ^ 31) || decide (2 ^ 31 - 1 < e)

/-- The carry-in of R293 and borrow-in of R294 as a number. -/
def bit (c : Bool) : Nat := if c then 1 else 0

/-- unsigned(a) + unsigned(b) + c modulo 2^32 (R293). -/
def addWord (a b : Word) (c : Bool) : Word := BitVec.ofNat 32 (a.toNat + b.toNat + bit c)

/-- (a - b - c) modulo 2^32 (R294). -/
def subWord (a b : Word) (c : Bool) : Word := BitVec.ofInt 32 ((a.toNat : Int) - b.toNat - bit c)

/-- add_flags(a, b, c) (R293). -/
def addFlags (a b : Word) (c : Bool) : Flags :=
  { cy := decide (2 ^ 32 ≤ a.toNat + b.toNat + bit c)
    ov := outOfRange (a.toInt + b.toInt + bit c)
    s := (addWord a b c).msb
    z := addWord a b c == 0 }

/-- sub_flags(a, b, c): CY is the borrow (R294). -/
def subFlags (a b : Word) (c : Bool) : Flags :=
  { cy := decide (a.toNat < b.toNat + bit c)
    ov := outOfRange (a.toInt - b.toInt - bit c)
    s := (subWord a b c).msb
    z := subWord a b c == 0 }

/-- sat32(e) (R10, R310). -/
def sat32 (e : Int) : Word :=
  if 2 ^ 31 - 1 < e then 0x7FFFFFFF else if e < -2 ^ 31 then 0x80000000 else BitVec.ofInt 32 e

/-- The result of sat_add(a, b) (R310). -/
def satAddWord (a b : Word) : Word := sat32 (a.toInt + b.toInt)

/-- The result of sat_sub(a, b) (R310). -/
def satSubWord (a b : Word) : Word := sat32 (a.toInt - b.toInt)

/-- The flags of sat_add(a, b): CY from the operands, S and Z from the saturated result (R310). -/
def satAddFlags (a b : Word) : Flags :=
  { addFlags a b false with s := (satAddWord a b).msb, z := satAddWord a b == 0 }

/-- The flags of sat_sub(a, b) (R310). -/
def satSubFlags (a b : Word) : Flags :=
  { subFlags a b false with s := (satSubWord a b).msb, z := satSubWord a b == 0 }

/-- The PSW with CY, OV, S and Z written, the rest as it was. -/
def State.withFlags (s : State) (f : Flags) : State :=
  (((s.setPswBit 3 f.cy).setPswBit 2 f.ov).setPswBit 1 f.s).setPswBit 0 f.z

/-- The flags of a saturated operation: SAT is set when OV = 1 and kept otherwise (R310, R318). -/
def State.withSatFlags (s : State) (f : Flags) : State :=
  (s.withFlags f).setPswBit 4 (s.flagSAT || f.ov)

/-- logic_flags(r): OV = 0, S and Z from r, CY and SAT kept (R338). -/
def State.withLogicFlags (s : State) (r : Word) : State :=
  s.withFlags { cy := s.flagCY, ov := false, s := r.msb, z := r == 0 }

/-- The flags of a shift with result r whose last bit shifted out is c (R365). -/
def shiftFlags (c : Bool) (r : Word) : Flags := { cy := c, ov := false, s := r.msb, z := r == 0 }

/-- The last bit that a left shift of v by n moves out: v[32-n], 0 for n = 0 (R365). -/
def shlOut (v : Word) (n : Nat) : Bool := if n = 0 then false else v.getLsbD (32 - n)

/-- The last bit that a right shift of v by n moves out: v[n-1], 0 for n = 0 (R365). -/
def shrOut (v : Word) (n : Nat) : Bool := if n = 0 then false else v.getLsbD (n - 1)

/-- The flags of a swap with result r, from the conditions of the table for CY and Z (R367). -/
def swapFlags (cy z : Bool) (r : Word) : Flags := { cy := cy, ov := false, s := r.msb, z := z }

/-- Some of the four bytes of r is 00H (R367, BSW). -/
def someByteZero (r : Word) : Bool := byteOf r 0 == 0 || byteOf r 1 == 0 || byteOf r 2 == 0 || byteOf r 3 == 0

/-- Some of the two bytes of r[15:0] is 00H (R367, BSH). -/
def someLowByteZero (r : Word) : Bool := byteOf r 0 == 0 || byteOf r 1 == 0

/-- Some of the two halfwords of r is 0000H (R367, HSW). -/
def someHalfZero (r : Word) : Bool := lowHalf r == 0 || highHalf r == 0

/-- The flags of a bit search that answers k: 0 is "not found", 32 "found at the last position" (R374). -/
def searchFlags (k : Nat) : Flags := { cy := k == 32, ov := false, s := false, z := k == 0 }

/-- The flags of a division: CY and SAT are kept (R398). -/
def State.withDivFlags (s : State) (ov sg z : Bool) : State :=
  s.withFlags { cy := s.flagCY, ov := ov, s := sg, z := z }

/-- cond(cccc) on the PSW flags (R13). -/
def State.cond (s : State) (cc : Cond) : Bool :=
  match cc with
  | .v => s.flagOV
  | .nv => !s.flagOV
  | .c => s.flagCY
  | .nc => !s.flagCY
  | .z => s.flagZ
  | .nz => !s.flagZ
  | .nh => s.flagCY || s.flagZ
  | .h => !(s.flagCY || s.flagZ)
  | .n => s.flagS
  | .p => !s.flagS
  | .t => true
  | .sa => s.flagSAT
  | .lt => s.flagS ^^ s.flagOV
  | .ge => !(s.flagS ^^ s.flagOV)
  | .le => (s.flagS ^^ s.flagOV) || s.flagZ
  | .gt => !((s.flagS ^^ s.flagOV) || s.flagZ)

end Sys2Proof.Machine
end

