-- ==== Sys2Proof/Machine/Operands.lean ====
section
/-! DEFINITION. Every operand form: the words that immediates stand for (R187), the addresses of the based addressing types
(R112, R236, R434), branch displacements (R111, R417), register lists (R452), register pairs (R270). A displacement is a byte
displacement in assembly, and its encoding drops the low bits that are fixed at 0 (R197): the definitions put them back. -/

namespace Sys2Proof.Machine

/-! ## Immediates (R187) -/

/-- sext_5(imm5). -/
def sext5 (i : BitVec 5) : Word := i.signExtend 32

/-- sext_9(imm9), of MUL (R261). -/
def sext9 (i : BitVec 9) : Word := i.signExtend 32

/-- zext_9(imm9), of MULU (R267). -/
def zext9 (i : BitVec 9) : Word := i.setWidth 32

/-- sext_16(imm16). -/
def sext16 (i : Half) : Word := i.signExtend 32

/-- zext_16(imm16). -/
def zext16 (i : Half) : Word := i.setWidth 32

/-- imm16 : 0000H (R288). -/
def upper16 (i : Half) : Word := i ++ 0#16

/-- zext(imm5 << 2): a frame size in bytes; the operand is the field value, used shifted left by 2 (R197, R465, R457). -/
def frameBytes (i : BitVec 5) : Word := i.setWidth 32 <<< 2

/-! ## Data addresses (R112, R197, R236) -/

/-- GR[reg1] + sext_16(disp16). -/
def State.addr16 (s : State) (disp16 : Half) (reg1 : Reg) : Word := s.readReg reg1 + disp16.signExtend 32

/-- GR[reg1] + sext_16(disp16[15:1] : 0): the encoding drops bit 0 (R197). -/
def State.addr15 (s : State) (disp15 : BitVec 15) (reg1 : Reg) : Word :=
  s.readReg reg1 + (disp15 ++ 0#1).signExtend 32

/-- GR[reg1] + sext_23(disp23). -/
def State.addr23 (s : State) (disp23 : BitVec 23) (reg1 : Reg) : Word := s.readReg reg1 + disp23.signExtend 32

/-- GR[reg1] + sext_23(disp23[22:1] : 0): the encoding drops bit 0 (R197). -/
def State.addr22 (s : State) (disp22h : BitVec 22) (reg1 : Reg) : Word :=
  s.readReg reg1 + (disp22h ++ 0#1).signExtend 32

/-- GR[30] + zext(disp): SLD.BU. -/
def State.epAddr4 (s : State) (disp4 : BitVec 4) : Word := s.readReg epReg + disp4.setWidth 32

/-- GR[30] + zext(disp5[4:1] : 0): SLD.HU; the encoding drops bit 0 (R197). -/
def State.epAddr5 (s : State) (disp4 : BitVec 4) : Word := s.readReg epReg + (disp4 ++ 0#1).setWidth 32

/-- GR[30] + zext(disp7): SLD.B, SST.B. -/
def State.epAddr7 (s : State) (disp7 : BitVec 7) : Word := s.readReg epReg + disp7.setWidth 32

/-- GR[30] + zext(disp8[7:1] : 0): SLD.H, SST.H; the encoding drops bit 0 (R197). -/
def State.epAddr8 (s : State) (disp7 : BitVec 7) : Word := s.readReg epReg + (disp7 ++ 0#1).setWidth 32

/-- GR[30] + zext(disp8[7:2] : 00): SLD.W, SST.W; the encoding drops bits 1-0 (R197). -/
def State.epAddr8w (s : State) (disp6 : BitVec 6) : Word := s.readReg epReg + (disp6 ++ 0#2).setWidth 32

/-- The base register of a based access is sp (R147). -/
def isSp (reg1 : Reg) : Bool := reg1 == spReg

/-- A load of n bytes (R235). -/
def loadAccess (a : Word) (n : Nat) (sp : Bool) : Access := { addr := a, size := n, kind := .load, spRel := sp }

/-- A store of n bytes (R235). -/
def storeAccess (a : Word) (n : Nat) (sp : Bool) : Access := { addr := a, size := n, kind := .store, spRel := sp }

/-- A table read of CALLT or SWITCH (R453, R469). -/
def tableAccess (a : Word) : Access := { addr := a, size := 2, kind := .table, spRel := false }

/-- The byte access of TST1 (R437). -/
def testAccess (a : Word) (sp : Bool) : Access := { addr := a, size := 1, kind := .bitTest, spRel := sp }

/-- The byte access of SET1, NOT1, CLR1 (R437) or the word access of CAXI (R454). -/
def modifyAccess (a : Word) (n : Nat) (sp : Bool) : Access := { addr := a, size := n, kind := .modify, spRel := sp }

/-- A store of PREPARE (R465). -/
def pushAccess (a : Word) : Access := { addr := a, size := 4, kind := .push, spRel := true }

/-- A load of DISPOSE (R457). -/
def popAccess (a : Word) : Access := { addr := a, size := 4, kind := .pop, spRel := true }

/-! ## Branch displacements (R187, R197, R417) -/

/-- sext_9(disp9), disp9 = disp8 : 0: the encoding drops bit 0 (R197). -/
def branch9 (disp8 : BitVec 8) : Word := (disp8 ++ 0#1).signExtend 32

/-- sext_22(disp22), disp22 = disp21 : 0: the encoding drops bit 0 (R197). -/
def branch22 (disp21 : BitVec 21) : Word := (disp21 ++ 0#1).signExtend 32

/-- disp32 = disp31 : 0: the encoding drops bit 0 (R197). -/
def branch32 (disp31 : BitVec 31) : Word := disp31 ++ 0#1

/-! ## Register lists (R452) -/

/-- The registers r20-r31 in ascending order, each with its bit of the encoded list (bits 11-1 are list12 bits 31-21, bit 0
is list12 bit 0). -/
def listTable : List (Reg × Nat) :=
  [(20, 7), (21, 6), (22, 5), (23, 4), (24, 11), (25, 10), (26, 9), (27, 8), (28, 3), (29, 2), (30, 0), (31, 1)]

/-- The listed registers in ascending order: the order of PREPARE (R465). -/
def ascending (list12 : RegList) : List Reg :=
  (listTable.filter fun p => list12.getLsbD p.2).map Prod.fst

/-- The listed registers in descending order: the order of DISPOSE (R457). -/
def descending (list12 : RegList) : List Reg := (ascending list12).reverse

/-! ## Register pairs (R270) -/

/-- The even register of a pair. -/
def pairLow (p : RegPair) : Reg := p ++ 0#1

/-- The odd register of a pair. -/
def pairHigh (p : RegPair) : Reg := p ++ 1#1

/-- GR[reg+1] : GR[reg] (R270). -/
def State.readPair (s : State) (p : RegPair) : DWord := s.readReg (pairHigh p) ++ s.readReg (pairLow p)

/-- The low word to reg, the high word to reg+1 (R270); a write to r0 is discarded (R21). -/
def State.writePair (s : State) (p : RegPair) (v : DWord) : State :=
  (s.writeReg (pairLow p) (v.extractLsb' 0 32)).writeReg (pairHigh p) (v.extractLsb' 32 32)

end Sys2Proof.Machine
end

