-- ==== Sys2Proof/Machine/Arithmetic.lean ====
section
/-! DEFINITION. The arithmetic and conditional arithmetic instructions (42_arithmetic.md). SAT is never touched. -/

namespace Sys2Proof.Machine

/-- dst <- a + b + c with add_flags(a, b, c) (R293). -/
def State.addInto (s : State) (dst : Reg) (a b : Word) (c : Bool) : State :=
  (s.withFlags (addFlags a b c)).writeReg dst (addWord a b c)

/-- dst <- a - b - c with sub_flags(a, b, c) (R294). -/
def State.subInto (s : State) (dst : Reg) (a b : Word) (c : Bool) : State :=
  (s.withFlags (subFlags a b c)).writeReg dst (subWord a b c)

/-- ADD reg1, reg2 (R280). -/
def execAdd (reg1 reg2 : Reg) (s : State) : Result :=
  .next ((s.addInto reg2 (s.readReg reg2) (s.readReg reg1) false).advance 2)

/-- ADD imm5, reg2 (R281). -/
def execAddImm5 (imm5 : BitVec 5) (reg2 : Reg) (s : State) : Result :=
  .next ((s.addInto reg2 (s.readReg reg2) (sext5 imm5) false).advance 2)

/-- ADDI imm16, reg1, reg2 (R282). -/
def execAddi (imm16 : Half) (reg1 reg2 : Reg) (s : State) : Result :=
  .next ((s.addInto reg2 (s.readReg reg1) (sext16 imm16) false).advance 4)

/-- CMP reg1, reg2 (R283). -/
def execCmp (reg1 reg2 : Reg) (s : State) : Result :=
  .next ((s.withFlags (subFlags (s.readReg reg2) (s.readReg reg1) false)).advance 2)

/-- CMP imm5, reg2 (R283). -/
def execCmpImm5 (imm5 : BitVec 5) (reg2 : Reg) (s : State) : Result :=
  .next ((s.withFlags (subFlags (s.readReg reg2) (sext5 imm5) false)).advance 2)

/-- MOV reg1, reg2 (R284). -/
def execMov (reg1 reg2 : Reg) (s : State) : Result :=
  .next ((s.writeReg reg2 (s.readReg reg1)).advance 2)

/-- MOV imm5, reg2 (R285). -/
def execMovImm5 (imm5 : BitVec 5) (reg2 : Reg) (s : State) : Result :=
  .next ((s.writeReg reg2 (sext5 imm5)).advance 2)

/-- MOV imm32, reg1 (R286). -/
def execMovImm32 (imm32 : Word) (reg1 : Reg) (s : State) : Result :=
  .next ((s.writeReg reg1 imm32).advance 6)

/-- MOVEA imm16, reg1, reg2 (R287). -/
def execMovea (imm16 : Half) (reg1 reg2 : Reg) (s : State) : Result :=
  .next ((s.writeReg reg2 (s.readReg reg1 + sext16 imm16)).advance 4)

/-- MOVHI imm16, reg1, reg2 (R288). -/
def execMovhi (imm16 : Half) (reg1 reg2 : Reg) (s : State) : Result :=
  .next ((s.writeReg reg2 (s.readReg reg1 + upper16 imm16)).advance 4)

/-- SUB reg1, reg2 (R289). -/
def execSub (reg1 reg2 : Reg) (s : State) : Result :=
  .next ((s.subInto reg2 (s.readReg reg2) (s.readReg reg1) false).advance 2)

/-- SUBR reg1, reg2 (R290). -/
def execSubr (reg1 reg2 : Reg) (s : State) : Result :=
  .next ((s.subInto reg2 (s.readReg reg1) (s.readReg reg2) false).advance 2)

/-- ADF cccc, reg1, reg2, reg3 (R291). -/
def execAdf (cccc : Cond) (reg1 reg2 reg3 : Reg) (s : State) : Result :=
  .next ((s.addInto reg3 (s.readReg reg2) (s.readReg reg1) (s.cond cccc)).advance 4)

/-- SBF cccc, reg1, reg2, reg3 (R292). -/
def execSbf (cccc : Cond) (reg1 reg2 reg3 : Reg) (s : State) : Result :=
  .next ((s.subInto reg3 (s.readReg reg2) (s.readReg reg1) (s.cond cccc)).advance 4)

end Sys2Proof.Machine
end

