-- ==== Sys2Proof/Machine/BitManip.lean ====
section
/-! DEFINITION. The bit manipulation instructions (48_bit_manipulation.md): one byte is read, Z shows whether the bit was 0,
and but for TST1 the byte is written back, in one indivisible step (R434 to R437). -/

namespace Sys2Proof.Machine

/-- What a bit instruction does to the bit it names. -/
inductive BitOp where
  | set | invert | clear
  deriving DecidableEq, Repr

/-- The byte with bit k changed; the other seven bits as read (R436). -/
def BitOp.apply (op : BitOp) (token : Byte) (k : Nat) : Byte :=
  match op with
  | .set => token ||| (1#8 <<< k)
  | .clear => token &&& ~~~(1#8 <<< k)
  | .invert => token ^^^ (1#8 <<< k)

/-- PSW.Z <- NOT token[k] (R435). -/
def State.testBit (s : State) (token : Byte) (k : Nat) : State := s.setPswBit 0 (!token.getLsbD k)

/-- Read, test, change and write back bit k of the byte at a, and go on len bytes further (R430, R431, R432). With an error
of either access memory and Z are as before (R437, R122, log 41). -/
def State.modifyBit (s : State) (op : BitOp) (a : Word) (k len : Nat) : State :=
  s.reading a 1 fun t => t.writing a 1 ((op.apply (s.busRead8 a) k).setWidth 32) fun u =>
    (u.testBit (s.busRead8 a) k).advance len

/-- Read and test bit k of the byte at a, and go on len bytes further (R433). -/
def State.readBit (s : State) (a : Word) (k len : Nat) : State :=
  s.reading a 1 fun t => (t.testBit (s.busRead8 a) k).advance len

/-- The bit number GR[reg2][2:0] (R434). -/
def bitNumber (v : Word) : Nat := (v.extractLsb' 0 3).toNat

/-- SET1 bit#3, disp16 [reg1] (R432). -/
def execSet1 (bit3 : BitVec 3) (disp16 : Half) (reg1 : Reg) (s : State) : Result :=
  .next (s.access (modifyAccess (s.addr16 disp16 reg1) 1 (isSp reg1))
    (s.modifyBit .set (s.addr16 disp16 reg1) bit3.toNat 4))

/-- SET1 reg2, [reg1] (R432). -/
def execSet1Reg (reg2 reg1 : Reg) (s : State) : Result :=
  .next (s.access (modifyAccess (s.readReg reg1) 1 (isSp reg1))
    (s.modifyBit .set (s.readReg reg1) (bitNumber (s.readReg reg2)) 4))

/-- NOT1 bit#3, disp16 [reg1] (R431). -/
def execNot1 (bit3 : BitVec 3) (disp16 : Half) (reg1 : Reg) (s : State) : Result :=
  .next (s.access (modifyAccess (s.addr16 disp16 reg1) 1 (isSp reg1))
    (s.modifyBit .invert (s.addr16 disp16 reg1) bit3.toNat 4))

/-- NOT1 reg2, [reg1] (R431). -/
def execNot1Reg (reg2 reg1 : Reg) (s : State) : Result :=
  .next (s.access (modifyAccess (s.readReg reg1) 1 (isSp reg1))
    (s.modifyBit .invert (s.readReg reg1) (bitNumber (s.readReg reg2)) 4))

/-- CLR1 bit#3, disp16 [reg1] (R430). -/
def execClr1 (bit3 : BitVec 3) (disp16 : Half) (reg1 : Reg) (s : State) : Result :=
  .next (s.access (modifyAccess (s.addr16 disp16 reg1) 1 (isSp reg1))
    (s.modifyBit .clear (s.addr16 disp16 reg1) bit3.toNat 4))

/-- CLR1 reg2, [reg1] (R430). -/
def execClr1Reg (reg2 reg1 : Reg) (s : State) : Result :=
  .next (s.access (modifyAccess (s.readReg reg1) 1 (isSp reg1))
    (s.modifyBit .clear (s.readReg reg1) (bitNumber (s.readReg reg2)) 4))

/-- TST1 bit#3, disp16 [reg1]: a plain read (R433). -/
def execTst1 (bit3 : BitVec 3) (disp16 : Half) (reg1 : Reg) (s : State) : Result :=
  .next (s.access (testAccess (s.addr16 disp16 reg1) (isSp reg1))
    (s.readBit (s.addr16 disp16 reg1) bit3.toNat 4))

/-- TST1 reg2, [reg1] (R433). -/
def execTst1Reg (reg2 reg1 : Reg) (s : State) : Result :=
  .next (s.access (testAccess (s.readReg reg1) (isSp reg1))
    (s.readBit (s.readReg reg1) (bitNumber (s.readReg reg2)) 4))

end Sys2Proof.Machine
end

