-- ==== Sys2Proof/Machine/Branch.lean ====
section
/-! DEFINITION. The branch instructions (47_branch.md). No flag changes, no memory is accessed (R418); every target goes
through pcmask (R417). -/

namespace Sys2Proof.Machine

/-- Bcond disp9 (R410). -/
def execBcond (cccc : Cond) (disp8 : BitVec 8) (s : State) : Result :=
  .next (if s.cond cccc then s.setPc (s.pc + branch9 disp8) else s.advance 2)

/-- JARL disp22, reg2: the saved value is the 32-bit sum pc + 4 (R411, log 37). -/
def execJarlDisp22 (disp21 : BitVec 21) (reg2 : Reg) (s : State) : Result :=
  .next ((s.writeReg reg2 (s.pc + 4)).setPc (s.pc + branch22 disp21))

/-- JARL disp32, reg1 (R412). -/
def execJarlDisp32 (disp31 : BitVec 31) (reg1 : Reg) (s : State) : Result :=
  .next ((s.writeReg reg1 (s.pc + 6)).setPc (s.pc + branch32 disp31))

/-- JMP [reg1] (R413). -/
def execJmp (reg1 : Reg) (s : State) : Result :=
  .next (s.setPc (s.readReg reg1))

/-- JMP disp32 [reg1] (R414). -/
def execJmpDisp32 (disp31 : BitVec 31) (reg1 : Reg) (s : State) : Result :=
  .next (s.setPc (s.readReg reg1 + branch32 disp31))

/-- JR disp22 (R415). -/
def execJrDisp22 (disp21 : BitVec 21) (s : State) : Result :=
  .next (s.setPc (s.pc + branch22 disp21))

/-- JR disp32 (R416). -/
def execJrDisp32 (disp31 : BitVec 31) (s : State) : Result :=
  .next (s.setPc (s.pc + branch32 disp31))

end Sys2Proof.Machine
end

