-- ==== Sys2Proof/Machine/DataManip.lean ====
section
/-! DEFINITION. The data manipulation and bit search instructions (45_data_manipulation.md). SAT is never touched. -/

namespace Sys2Proof.Machine

/-! ## Shifts (R365, R366) -/

/-- The low 5 bits of a register as a shift count (R365). -/
def shiftCount (v : Word) : Nat := (v.extractLsb' 0 5).toNat

/-- dst <- v << n with the flags of R365; with n = 0 dst receives v (R366, C21, log 32). -/
def State.shlInto (s : State) (dst : Reg) (v : Word) (n : Nat) : State :=
  (s.withFlags (shiftFlags (shlOut v n) (v <<< n))).writeReg dst (v <<< n)

/-- dst <- v >>u n with the flags of R365. -/
def State.shrInto (s : State) (dst : Reg) (v : Word) (n : Nat) : State :=
  (s.withFlags (shiftFlags (shrOut v n) (v >>> n))).writeReg dst (v >>> n)

/-- dst <- v >>s n with the flags of R365. -/
def State.sarInto (s : State) (dst : Reg) (v : Word) (n : Nat) : State :=
  (s.withFlags (shiftFlags (shrOut v n) (v.sshiftRight n))).writeReg dst (v.sshiftRight n)

/-- SHL reg1, reg2 (R359). -/
def execShl (reg1 reg2 : Reg) (s : State) : Result :=
  .next ((s.shlInto reg2 (s.readReg reg2) (shiftCount (s.readReg reg1))).advance 4)

/-- SHL imm5, reg2 (R359). -/
def execShlImm5 (imm5 : BitVec 5) (reg2 : Reg) (s : State) : Result :=
  .next ((s.shlInto reg2 (s.readReg reg2) imm5.toNat).advance 2)

/-- SHL reg1, reg2, reg3 (R359). -/
def execShl3 (reg1 reg2 reg3 : Reg) (s : State) : Result :=
  .next ((s.shlInto reg3 (s.readReg reg2) (shiftCount (s.readReg reg1))).advance 4)

/-- SHR reg1, reg2 (R360). -/
def execShr (reg1 reg2 : Reg) (s : State) : Result :=
  .next ((s.shrInto reg2 (s.readReg reg2) (shiftCount (s.readReg reg1))).advance 4)

/-- SHR imm5, reg2 (R360). -/
def execShrImm5 (imm5 : BitVec 5) (reg2 : Reg) (s : State) : Result :=
  .next ((s.shrInto reg2 (s.readReg reg2) imm5.toNat).advance 2)

/-- SHR reg1, reg2, reg3 (R360). -/
def execShr3 (reg1 reg2 reg3 : Reg) (s : State) : Result :=
  .next ((s.shrInto reg3 (s.readReg reg2) (shiftCount (s.readReg reg1))).advance 4)

/-- SAR reg1, reg2 (R355). -/
def execSar (reg1 reg2 : Reg) (s : State) : Result :=
  .next ((s.sarInto reg2 (s.readReg reg2) (shiftCount (s.readReg reg1))).advance 4)

/-- SAR imm5, reg2 (R355). -/
def execSarImm5 (imm5 : BitVec 5) (reg2 : Reg) (s : State) : Result :=
  .next ((s.sarInto reg2 (s.readReg reg2) imm5.toNat).advance 2)

/-- SAR reg1, reg2, reg3 (R355). -/
def execSar3 (reg1 reg2 reg3 : Reg) (s : State) : Result :=
  .next ((s.sarInto reg3 (s.readReg reg2) (shiftCount (s.readReg reg1))).advance 4)

/-! ## Swaps (R367) -/

/-- The four bytes reversed (R351). -/
def swapBytes (v : Word) : Word := byteOf v 0 ++ byteOf v 1 ++ byteOf v 2 ++ byteOf v 3

/-- The two bytes of each halfword exchanged (R350). -/
def swapHalfBytes (v : Word) : Word := byteOf v 2 ++ byteOf v 3 ++ byteOf v 0 ++ byteOf v 1

/-- The two halfwords exchanged (R354). -/
def swapHalves (v : Word) : Word := lowHalf v ++ highHalf v

/-- dst <- r with the flags of a swap (R367). -/
def State.swapInto (s : State) (dst : Reg) (r : Word) (cy z : Bool) : State :=
  (s.withFlags (swapFlags cy z r)).writeReg dst r

/-- BSW reg2, reg3 (R351). -/
def execBsw (reg2 reg3 : Reg) (s : State) : Result :=
  let r := swapBytes (s.readReg reg2)
  .next ((s.swapInto reg3 r (someByteZero r) (r == 0)).advance 4)

/-- BSH reg2, reg3 (R350). -/
def execBsh (reg2 reg3 : Reg) (s : State) : Result :=
  let r := swapHalfBytes (s.readReg reg2)
  .next ((s.swapInto reg3 r (someLowByteZero r) (lowHalf r == 0)).advance 4)

/-- HSW reg2, reg3 (R354). -/
def execHsw (reg2 reg3 : Reg) (s : State) : Result :=
  let r := swapHalves (s.readReg reg2)
  .next ((s.swapInto reg3 r (someHalfZero r) (r == 0)).advance 4)

/-- HSH reg2, reg3 (R358). -/
def execHsh (reg2 reg3 : Reg) (s : State) : Result :=
  let r := s.readReg reg2
  .next ((s.swapInto reg3 r (lowHalf r == 0) (lowHalf r == 0)).advance 4)

/-! ## Conditional data -/

/-- CMOV cccc, reg1, reg2, reg3 (R352). -/
def execCmov (cccc : Cond) (reg1 reg2 reg3 : Reg) (s : State) : Result :=
  .next ((s.writeReg reg3 (if s.cond cccc then s.readReg reg1 else s.readReg reg2)).advance 4)

/-- CMOV cccc, imm5, reg2, reg3 (R353). -/
def execCmovImm5 (cccc : Cond) (imm5 : BitVec 5) (reg2 reg3 : Reg) (s : State) : Result :=
  .next ((s.writeReg reg3 (if s.cond cccc then sext5 imm5 else s.readReg reg2)).advance 4)

/-- SETF cccc, reg2 (R357). -/
def execSetf (cccc : Cond) (reg2 : Reg) (s : State) : Result :=
  .next ((s.writeReg reg2 (if s.cond cccc then 1 else 0)).advance 4)

/-- SASF cccc, reg2 (R356). -/
def execSasf (cccc : Cond) (reg2 : Reg) (s : State) : Result :=
  .next ((s.writeReg reg2 (s.readReg reg2 <<< 1 ||| (if s.cond cccc then 1 else 0))).advance 4)

/-! ## Extensions -/

/-- SXB reg1 (R361). -/
def execSxb (reg1 : Reg) (s : State) : Result :=
  .next ((s.writeReg reg1 ((byteOf (s.readReg reg1) 0).signExtend 32)).advance 2)

/-- SXH reg1 (R362). -/
def execSxh (reg1 : Reg) (s : State) : Result :=
  .next ((s.writeReg reg1 ((lowHalf (s.readReg reg1)).signExtend 32)).advance 2)

/-- ZXB reg1 (R363). -/
def execZxb (reg1 : Reg) (s : State) : Result :=
  .next ((s.writeReg reg1 ((byteOf (s.readReg reg1) 0).setWidth 32)).advance 2)

/-- ZXH reg1 (R364). -/
def execZxh (reg1 : Reg) (s : State) : Result :=
  .next ((s.writeReg reg1 ((lowHalf (s.readReg reg1)).setWidth 32)).advance 2)

/-! ## Bit search (R374) -/

/-- The position, counted from 1, of the first bit equal to b among the bits of a list; 0 when there is none. -/
def firstPosition (b : Bool) : List Bool → Nat → Nat
  | [], _ => 0
  | x :: xs, k => if x == b then k else firstPosition b xs (k + 1)

/-- The bits of a word from bit 0 up. -/
def bitsUp (v : Word) : List Bool := (List.range 32).map fun i => v.getLsbD i

/-- The search from bit 0 up (R371, R373). -/
def searchRight (b : Bool) (v : Word) : Nat := firstPosition b (bitsUp v) 1

/-- The search from bit 31 down (R370, R372). -/
def searchLeft (b : Bool) (v : Word) : Nat := firstPosition b (bitsUp v).reverse 1

/-- dst <- k with the flags of a bit search (R374). -/
def State.searchInto (s : State) (dst : Reg) (k : Nat) : State :=
  (s.withFlags (searchFlags k)).writeReg dst (BitVec.ofNat 32 k)

/-- SCH0L reg2, reg3 (R370). -/
def execSch0l (reg2 reg3 : Reg) (s : State) : Result :=
  .next ((s.searchInto reg3 (searchLeft false (s.readReg reg2))).advance 4)

/-- SCH0R reg2, reg3 (R371). -/
def execSch0r (reg2 reg3 : Reg) (s : State) : Result :=
  .next ((s.searchInto reg3 (searchRight false (s.readReg reg2))).advance 4)

/-- SCH1L reg2, reg3 (R372). -/
def execSch1l (reg2 reg3 : Reg) (s : State) : Result :=
  .next ((s.searchInto reg3 (searchLeft true (s.readReg reg2))).advance 4)

/-- SCH1R reg2, reg3 (R373). -/
def execSch1r (reg2 reg3 : Reg) (s : State) : Result :=
  .next ((s.searchInto reg3 (searchRight true (s.readReg reg2))).advance 4)

end Sys2Proof.Machine
end

