-- ==== Sys2Proof/Machine/Divide.lean ====
section
/-! DEFINITION. The divide and high-speed divide instructions (46_divide.md). CY and SAT are kept; what the spec calls
undefined is a free value (R399, U4, U5, logs 7 and 8). -/

namespace Sys2Proof.Machine

/-- What a division gives: the two results and the flags OV, S, Z. -/
structure Division where
  quotient  : Word
  remainder : Word
  ov : Bool
  s  : Bool
  z  : Bool
  deriving DecidableEq, Repr

/-- Division by zero: OV = 1, every other result is undefined (R398(a), R399(1)); n counts the free values used. -/
def divideByZero (n : Nat) : Division :=
  { quotient := Config.freeWord n, remainder := Config.freeWord (n + 1), ov := true
    s := Config.freeBit n, z := Config.freeBit (n + 1) }

/-- A signed division: truncated quotient, remainder with the sign of the dividend (R397, D18, log 9); 80000000H / -1
overflows to 80000000H with remainder 0 (R399(2)). -/
def divideSigned (n : Nat) (a b : Int) : Division :=
  if b = 0 then divideByZero n
  else if a = -2 ^ 31 ∧ b = -1 then
    { quotient := 0x80000000, remainder := 0, ov := true, s := true, z := false }
  else
    let q := BitVec.ofInt 32 (a.tdiv b)
    { quotient := q, remainder := BitVec.ofInt 32 (a.tmod b), ov := false, s := q.msb, z := q == 0 }

/-- An unsigned division (R394, R397, R398). -/
def divideUnsigned (n : Nat) (a b : Nat) : Division :=
  if b = 0 then divideByZero n
  else
    let q := BitVec.ofNat 32 (a / b)
    { quotient := q, remainder := BitVec.ofNat 32 (a % b), ov := false, s := q.msb, z := q == 0 }

/-- Past the free values that one division can use. -/
def State.useFree (s : State) : State := { s with free := s.free + 3 }

/-- reg2 <- quotient, reg3 <- remainder, OV, S, Z. With reg2 = reg3 the register receives the remainder and the flags are
undefined (R399(3)). -/
def State.divideInto (s : State) (d : Division) (reg2 reg3 : Reg) : State :=
  let t :=
    if reg2 = reg3 then
      s.withDivFlags (Config.freeBit s.free) (Config.freeBit (s.free + 1)) (Config.freeBit (s.free + 2))
    else s.withDivFlags d.ov d.s d.z
  ((t.writeReg reg2 d.quotient).writeReg reg3 d.remainder).useFree

/-- The common operation of DIV and DIVQ (R390, R395). -/
def State.wordDivision (s : State) (reg1 reg2 : Reg) : Division :=
  divideSigned s.free (s.readReg reg2).toInt (s.readReg reg1).toInt

/-- The common operation of DIVU and DIVQU (R394, R396). -/
def State.wordDivisionU (s : State) (reg1 reg2 : Reg) : Division :=
  divideUnsigned s.free (s.readReg reg2).toNat (s.readReg reg1).toNat

/-- The common operation of the two forms of DIVH: the divisor is the low halfword of reg1 (R391, R392). -/
def State.halfDivision (s : State) (reg1 reg2 : Reg) : Division :=
  divideSigned s.free (s.readReg reg2).toInt (lowHalf (s.readReg reg1)).toInt

/-- The operation of DIVHU: the divisor is the low halfword of reg1, unsigned (R393). -/
def State.halfDivisionU (s : State) (reg1 reg2 : Reg) : Division :=
  divideUnsigned s.free (s.readReg reg2).toNat (lowHalf (s.readReg reg1)).toNat

/-- DIV reg1, reg2, reg3 (R390). -/
def execDiv (reg1 reg2 reg3 : Reg) (s : State) : Result :=
  .next ((s.divideInto (s.wordDivision reg1 reg2) reg2 reg3).advance 4)

/-- DIVU reg1, reg2, reg3 (R394). -/
def execDivu (reg1 reg2 reg3 : Reg) (s : State) : Result :=
  .next ((s.divideInto (s.wordDivisionU reg1 reg2) reg2 reg3).advance 4)

/-- DIVQ reg1, reg2, reg3: the results of DIV (R395, R401). -/
def execDivq (reg1 reg2 reg3 : Reg) (s : State) : Result :=
  .next ((s.divideInto (s.wordDivision reg1 reg2) reg2 reg3).advance 4)

/-- DIVQU reg1, reg2, reg3: the results of DIVU (R396, R401). -/
def execDivqu (reg1 reg2 reg3 : Reg) (s : State) : Result :=
  .next ((s.divideInto (s.wordDivisionU reg1 reg2) reg2 reg3).advance 4)

/-- DIVH reg1, reg2: the remainder is not stored (R391). -/
def execDivh (reg1 reg2 : Reg) (s : State) : Result :=
  let d := s.halfDivision reg1 reg2
  .next ((((s.withDivFlags d.ov d.s d.z).writeReg reg2 d.quotient).useFree).advance 2)

/-- DIVH reg1, reg2, reg3 (R392). -/
def execDivh3 (reg1 reg2 reg3 : Reg) (s : State) : Result :=
  .next ((s.divideInto (s.halfDivision reg1 reg2) reg2 reg3).advance 4)

/-- DIVHU reg1, reg2, reg3 (R393). -/
def execDivhu (reg1 reg2 reg3 : Reg) (s : State) : Result :=
  .next ((s.divideInto (s.halfDivisionU reg1 reg2) reg2 reg3).advance 4)

end Sys2Proof.Machine
end

