-- ==== Sys2Proof/Machine/LoadStore.lean ====
section
/-! DEFINITION. The load and store instructions (40_load_store.md). Addresses are 32-bit sums, no alignment is needed, no flag
changes (R235). A violated protection raises MDP with nothing requested outside the CPU (R120), an error of the platform its
exception (R122); both leave register and memory as they were (R235(4)). -/

namespace Sys2Proof.Machine

/-- The end of a load: the destination receives the value, the PC moves past the instruction (R235). -/
def State.load (s : State) (dst : Reg) (v : Word) (bytes : Nat) : State := (s.writeReg dst v).advance bytes

/-- LD.B disp16 [reg1], reg2 (R220). -/
def execLdB (disp16 : Half) (reg1 reg2 : Reg) (s : State) : Result :=
  .next (s.access (loadAccess (s.addr16 disp16 reg1) 1 (isSp reg1))
    (s.reading (s.addr16 disp16 reg1) 1 fun t => t.load reg2 ((s.busRead8 (s.addr16 disp16 reg1)).signExtend 32) 4))

/-- LD.BU disp16 [reg1], reg2 (R222). -/
def execLdBu (disp16 : Half) (reg1 reg2 : Reg) (s : State) : Result :=
  .next (s.access (loadAccess (s.addr16 disp16 reg1) 1 (isSp reg1))
    (s.reading (s.addr16 disp16 reg1) 1 fun t => t.load reg2 ((s.busRead8 (s.addr16 disp16 reg1)).setWidth 32) 4))

/-- LD.H disp16 [reg1], reg2 (R224). -/
def execLdH (disp15 : BitVec 15) (reg1 reg2 : Reg) (s : State) : Result :=
  .next (s.access (loadAccess (s.addr15 disp15 reg1) 2 (isSp reg1))
    (s.reading (s.addr15 disp15 reg1) 2 fun t => t.load reg2 ((s.busRead16 (s.addr15 disp15 reg1)).signExtend 32) 4))

/-- LD.HU disp16 [reg1], reg2 (R226). -/
def execLdHu (disp15 : BitVec 15) (reg1 reg2 : Reg) (s : State) : Result :=
  .next (s.access (loadAccess (s.addr15 disp15 reg1) 2 (isSp reg1))
    (s.reading (s.addr15 disp15 reg1) 2 fun t => t.load reg2 ((s.busRead16 (s.addr15 disp15 reg1)).setWidth 32) 4))

/-- LD.W disp16 [reg1], reg2 (R228). -/
def execLdW (disp15 : BitVec 15) (reg1 reg2 : Reg) (s : State) : Result :=
  .next (s.access (loadAccess (s.addr15 disp15 reg1) 4 (isSp reg1))
    (s.reading (s.addr15 disp15 reg1) 4 fun t => t.load reg2 (s.busRead32 (s.addr15 disp15 reg1)) 4))

/-- LD.B disp23 [reg1], reg3 (R221). -/
def execLdBDisp23 (disp23 : BitVec 23) (reg1 reg3 : Reg) (s : State) : Result :=
  .next (s.access (loadAccess (s.addr23 disp23 reg1) 1 (isSp reg1))
    (s.reading (s.addr23 disp23 reg1) 1 fun t => t.load reg3 ((s.busRead8 (s.addr23 disp23 reg1)).signExtend 32) 6))

/-- LD.BU disp23 [reg1], reg3 (R223). -/
def execLdBuDisp23 (disp23 : BitVec 23) (reg1 reg3 : Reg) (s : State) : Result :=
  .next (s.access (loadAccess (s.addr23 disp23 reg1) 1 (isSp reg1))
    (s.reading (s.addr23 disp23 reg1) 1 fun t => t.load reg3 ((s.busRead8 (s.addr23 disp23 reg1)).setWidth 32) 6))

/-- LD.H disp23 [reg1], reg3 (R225). -/
def execLdHDisp23 (disp22h : BitVec 22) (reg1 reg3 : Reg) (s : State) : Result :=
  .next (s.access (loadAccess (s.addr22 disp22h reg1) 2 (isSp reg1))
    (s.reading (s.addr22 disp22h reg1) 2 fun t => t.load reg3 ((s.busRead16 (s.addr22 disp22h reg1)).signExtend 32) 6))

/-- LD.HU disp23 [reg1], reg3 (R227). -/
def execLdHuDisp23 (disp22h : BitVec 22) (reg1 reg3 : Reg) (s : State) : Result :=
  .next (s.access (loadAccess (s.addr22 disp22h reg1) 2 (isSp reg1))
    (s.reading (s.addr22 disp22h reg1) 2 fun t => t.load reg3 ((s.busRead16 (s.addr22 disp22h reg1)).setWidth 32) 6))

/-- LD.W disp23 [reg1], reg3 (R229). -/
def execLdWDisp23 (disp22h : BitVec 22) (reg1 reg3 : Reg) (s : State) : Result :=
  .next (s.access (loadAccess (s.addr22 disp22h reg1) 4 (isSp reg1))
    (s.reading (s.addr22 disp22h reg1) 4 fun t => t.load reg3 (s.busRead32 (s.addr22 disp22h reg1)) 6))

/-- SLD.B disp [ep], reg2 (R230). -/
def execSldB (disp7 : BitVec 7) (reg2 : Reg) (s : State) : Result :=
  .next (s.access (loadAccess (s.epAddr7 disp7) 1 false)
    (s.reading (s.epAddr7 disp7) 1 fun t => t.load reg2 ((s.busRead8 (s.epAddr7 disp7)).signExtend 32) 2))

/-- SLD.BU disp [ep], reg2 (R231). -/
def execSldBu (disp4 : BitVec 4) (reg2 : Reg) (s : State) : Result :=
  .next (s.access (loadAccess (s.epAddr4 disp4) 1 false)
    (s.reading (s.epAddr4 disp4) 1 fun t => t.load reg2 ((s.busRead8 (s.epAddr4 disp4)).setWidth 32) 2))

/-- SLD.H disp [ep], reg2 (R232). -/
def execSldH (disp7 : BitVec 7) (reg2 : Reg) (s : State) : Result :=
  .next (s.access (loadAccess (s.epAddr8 disp7) 2 false)
    (s.reading (s.epAddr8 disp7) 2 fun t => t.load reg2 ((s.busRead16 (s.epAddr8 disp7)).signExtend 32) 2))

/-- SLD.HU disp [ep], reg2 (R233). -/
def execSldHu (disp4 : BitVec 4) (reg2 : Reg) (s : State) : Result :=
  .next (s.access (loadAccess (s.epAddr5 disp4) 2 false)
    (s.reading (s.epAddr5 disp4) 2 fun t => t.load reg2 ((s.busRead16 (s.epAddr5 disp4)).setWidth 32) 2))

/-- SLD.W disp [ep], reg2 (R234). -/
def execSldW (disp6 : BitVec 6) (reg2 : Reg) (s : State) : Result :=
  .next (s.access (loadAccess (s.epAddr8w disp6) 4 false)
    (s.reading (s.epAddr8w disp6) 4 fun t => t.load reg2 (s.busRead32 (s.epAddr8w disp6)) 2))

/-- ST.B reg2, disp16 [reg1] (R237). -/
def execStB (reg2 : Reg) (disp16 : Half) (reg1 : Reg) (s : State) : Result :=
  .next (s.access (storeAccess (s.addr16 disp16 reg1) 1 (isSp reg1))
    (s.writing (s.addr16 disp16 reg1) 1 (s.readReg reg2) fun t => t.advance 4))

/-- ST.H reg2, disp16 [reg1] (R239). -/
def execStH (reg2 : Reg) (disp15 : BitVec 15) (reg1 : Reg) (s : State) : Result :=
  .next (s.access (storeAccess (s.addr15 disp15 reg1) 2 (isSp reg1))
    (s.writing (s.addr15 disp15 reg1) 2 (s.readReg reg2) fun t => t.advance 4))

/-- ST.W reg2, disp16 [reg1] (R241). -/
def execStW (reg2 : Reg) (disp15 : BitVec 15) (reg1 : Reg) (s : State) : Result :=
  .next (s.access (storeAccess (s.addr15 disp15 reg1) 4 (isSp reg1))
    (s.writing (s.addr15 disp15 reg1) 4 (s.readReg reg2) fun t => t.advance 4))

/-- ST.B reg3, disp23 [reg1] (R238). -/
def execStBDisp23 (reg3 : Reg) (disp23 : BitVec 23) (reg1 : Reg) (s : State) : Result :=
  .next (s.access (storeAccess (s.addr23 disp23 reg1) 1 (isSp reg1))
    (s.writing (s.addr23 disp23 reg1) 1 (s.readReg reg3) fun t => t.advance 6))

/-- ST.H reg3, disp23 [reg1] (R240). -/
def execStHDisp23 (reg3 : Reg) (disp22h : BitVec 22) (reg1 : Reg) (s : State) : Result :=
  .next (s.access (storeAccess (s.addr22 disp22h reg1) 2 (isSp reg1))
    (s.writing (s.addr22 disp22h reg1) 2 (s.readReg reg3) fun t => t.advance 6))

/-- ST.W reg3, disp23 [reg1] (R242). -/
def execStWDisp23 (reg3 : Reg) (disp22h : BitVec 22) (reg1 : Reg) (s : State) : Result :=
  .next (s.access (storeAccess (s.addr22 disp22h reg1) 4 (isSp reg1))
    (s.writing (s.addr22 disp22h reg1) 4 (s.readReg reg3) fun t => t.advance 6))

/-- SST.B reg2, disp [ep] (R243). -/
def execSstB (reg2 : Reg) (disp7 : BitVec 7) (s : State) : Result :=
  .next (s.access (storeAccess (s.epAddr7 disp7) 1 false)
    (s.writing (s.epAddr7 disp7) 1 (s.readReg reg2) fun t => t.advance 2))

/-- SST.H reg2, disp [ep] (R244). -/
def execSstH (reg2 : Reg) (disp7 : BitVec 7) (s : State) : Result :=
  .next (s.access (storeAccess (s.epAddr8 disp7) 2 false)
    (s.writing (s.epAddr8 disp7) 2 (s.readReg reg2) fun t => t.advance 2))

/-- SST.W reg2, disp [ep] (R245). -/
def execSstW (reg2 : Reg) (disp6 : BitVec 6) (s : State) : Result :=
  .next (s.access (storeAccess (s.epAddr8w disp6) 4 false)
    (s.writing (s.epAddr8w disp6) 4 (s.readReg reg2) fun t => t.advance 2))

end Sys2Proof.Machine
end

