-- ==== Sys2Proof/Machine/Logic.lean ====
section
/-! DEFINITION. The logical operation instructions (44_logic.md). -/

namespace Sys2Proof.Machine

/-- dst <- r with logic_flags(r) (R338). -/
def State.logicInto (s : State) (dst : Reg) (r : Word) : State := (s.withLogicFlags r).writeReg dst r

/-- AND reg1, reg2 (R330). -/
def execAnd (reg1 reg2 : Reg) (s : State) : Result :=
  .next ((s.logicInto reg2 (s.readReg reg2 &&& s.readReg reg1)).advance 2)

/-- ANDI imm16, reg1, reg2 (R331). -/
def execAndi (imm16 : Half) (reg1 reg2 : Reg) (s : State) : Result :=
  .next ((s.logicInto reg2 (s.readReg reg1 &&& zext16 imm16)).advance 4)

/-- NOT reg1, reg2 (R332). -/
def execNot (reg1 reg2 : Reg) (s : State) : Result :=
  .next ((s.logicInto reg2 (~~~(s.readReg reg1))).advance 2)

/-- OR reg1, reg2 (R333). -/
def execOr (reg1 reg2 : Reg) (s : State) : Result :=
  .next ((s.logicInto reg2 (s.readReg reg2 ||| s.readReg reg1)).advance 2)

/-- ORI imm16, reg1, reg2 (R334). -/
def execOri (imm16 : Half) (reg1 reg2 : Reg) (s : State) : Result :=
  .next ((s.logicInto reg2 (s.readReg reg1 ||| zext16 imm16)).advance 4)

/-- TST reg1, reg2: no register is written (R335). -/
def execTst (reg1 reg2 : Reg) (s : State) : Result :=
  .next ((s.withLogicFlags (s.readReg reg2 &&& s.readReg reg1)).advance 2)

/-- XOR reg1, reg2 (R336). -/
def execXor (reg1 reg2 : Reg) (s : State) : Result :=
  .next ((s.logicInto reg2 (s.readReg reg2 ^^^ s.readReg reg1)).advance 2)

/-- XORI imm16, reg1, reg2 (R337). -/
def execXori (imm16 : Half) (reg1 reg2 : Reg) (s : State) : Result :=
  .next ((s.logicInto reg2 (s.readReg reg1 ^^^ zext16 imm16)).advance 4)

end Sys2Proof.Machine
end

