-- ==== Sys2Proof/Machine/Multiply.lean ====
section
/-! DEFINITION. The multiply and multiply-accumulate instructions (41_multiply_mac.md). No flag changes. -/

namespace Sys2Proof.Machine

/-- signed(a) * signed(b) as a 64-bit value (R260). -/
def mulSigned (a b : Word) : DWord := BitVec.ofInt 64 (a.toInt * b.toInt)

/-- unsigned(a) * unsigned(b) as a 64-bit value (R266). -/
def mulUnsigned (a b : Word) : DWord := BitVec.ofNat 64 (a.toNat * b.toNat)

/-- signed(a) * signed(b) of halfwords, a 32-bit value (R263). -/
def mulHalf (a b : Half) : Word := BitVec.ofInt 32 (a.toInt * b.toInt)

/-- GR[reg2] <- p[31:0], then GR[reg3] <- p[63:32]: with reg2 = reg3 the high word stays (R260). -/
def State.writeProduct (s : State) (p : DWord) (reg2 reg3 : Reg) : State :=
  (s.writeReg reg2 (p.extractLsb' 0 32)).writeReg reg3 (p.extractLsb' 32 32)

/-- MUL reg1, reg2, reg3 (R260). -/
def execMul (reg1 reg2 reg3 : Reg) (s : State) : Result :=
  .next ((s.writeProduct (mulSigned (s.readReg reg2) (s.readReg reg1)) reg2 reg3).advance 4)

/-- MUL imm9, reg2, reg3 (R261). -/
def execMulImm9 (imm9 : BitVec 9) (reg2 reg3 : Reg) (s : State) : Result :=
  .next ((s.writeProduct (mulSigned (s.readReg reg2) (sext9 imm9)) reg2 reg3).advance 4)

/-- MULU reg1, reg2, reg3 (R266). -/
def execMulu (reg1 reg2 reg3 : Reg) (s : State) : Result :=
  .next ((s.writeProduct (mulUnsigned (s.readReg reg2) (s.readReg reg1)) reg2 reg3).advance 4)

/-- MULU imm9, reg2, reg3 (R267). -/
def execMuluImm9 (imm9 : BitVec 9) (reg2 reg3 : Reg) (s : State) : Result :=
  .next ((s.writeProduct (mulUnsigned (s.readReg reg2) (zext9 imm9)) reg2 reg3).advance 4)

/-- MULH reg1, reg2 (R263). -/
def execMulh (reg1 reg2 : Reg) (s : State) : Result :=
  .next ((s.writeReg reg2 (mulHalf (lowHalf (s.readReg reg2)) (lowHalf (s.readReg reg1)))).advance 2)

/-- MULH imm5, reg2 (R264). -/
def execMulhImm5 (imm5 : BitVec 5) (reg2 : Reg) (s : State) : Result :=
  .next ((s.writeReg reg2 (mulHalf (lowHalf (s.readReg reg2)) (imm5.signExtend 16))).advance 2)

/-- MULHI imm16, reg1, reg2 (R265). -/
def execMulhi (imm16 : Half) (reg1 reg2 : Reg) (s : State) : Result :=
  .next ((s.writeReg reg2 (mulHalf (lowHalf (s.readReg reg1)) imm16)).advance 4)

/-- MAC reg1, reg2, reg3, reg4: the sum is modulo 2^64 (R270). -/
def execMac (reg1 reg2 : Reg) (reg3 reg4 : RegPair) (s : State) : Result :=
  .next ((s.writePair reg4 (mulSigned (s.readReg reg2) (s.readReg reg1) + s.readPair reg3)).advance 4)

/-- MACU reg1, reg2, reg3, reg4 (R271). -/
def execMacu (reg1 reg2 : Reg) (reg3 reg4 : RegPair) (s : State) : Result :=
  .next ((s.writePair reg4 (mulUnsigned (s.readReg reg2) (s.readReg reg1) + s.readPair reg3)).advance 4)

end Sys2Proof.Machine
end

