-- ==== Sys2Proof/Machine/Saturated.lean ====
section
/-! DEFINITION. The saturated operation instructions (43_saturated.md). -/

namespace Sys2Proof.Machine

/-- dst <- sat_add(a, b) with its flags (R310). -/
def State.satAddInto (s : State) (dst : Reg) (a b : Word) : State :=
  (s.withSatFlags (satAddFlags a b)).writeReg dst (satAddWord a b)

/-- dst <- sat_sub(a, b) with its flags (R310). -/
def State.satSubInto (s : State) (dst : Reg) (a b : Word) : State :=
  (s.withSatFlags (satSubFlags a b)).writeReg dst (satSubWord a b)

/-- SATADD reg1, reg2 (R311). -/
def execSatadd (reg1 reg2 : Reg) (s : State) : Result :=
  .next ((s.satAddInto reg2 (s.readReg reg2) (s.readReg reg1)).advance 2)

/-- SATADD imm5, reg2 (R312). -/
def execSataddImm5 (imm5 : BitVec 5) (reg2 : Reg) (s : State) : Result :=
  .next ((s.satAddInto reg2 (s.readReg reg2) (sext5 imm5)).advance 2)

/-- SATADD reg1, reg2, reg3 (R313). -/
def execSatadd3 (reg1 reg2 reg3 : Reg) (s : State) : Result :=
  .next ((s.satAddInto reg3 (s.readReg reg2) (s.readReg reg1)).advance 4)

/-- SATSUB reg1, reg2 (R314). -/
def execSatsub (reg1 reg2 : Reg) (s : State) : Result :=
  .next ((s.satSubInto reg2 (s.readReg reg2) (s.readReg reg1)).advance 2)

/-- SATSUB reg1, reg2, reg3 (R315). -/
def execSatsub3 (reg1 reg2 reg3 : Reg) (s : State) : Result :=
  .next ((s.satSubInto reg3 (s.readReg reg2) (s.readReg reg1)).advance 4)

/-- SATSUBI imm16, reg1, reg2 (R316). -/
def execSatsubi (imm16 : Half) (reg1 reg2 : Reg) (s : State) : Result :=
  .next ((s.satSubInto reg2 (s.readReg reg1) (sext16 imm16)).advance 4)

/-- SATSUBR reg1, reg2 (R317). -/
def execSatsubr (reg1 reg2 : Reg) (s : State) : Result :=
  .next ((s.satSubInto reg2 (s.readReg reg1) (s.readReg reg2)).advance 2)

end Sys2Proof.Machine
end

