-- ==== Sys2Proof/Machine/SystemRegs.lean ====
section
/-! DEFINITION. The system registers as LDSR and STSR reach them: banks (R26 to R30, R55, R59, R63, R64), reading (R468), the
write rule of each register (10_state.md), system register protection (R560 to R562). -/

namespace Sys2Proof.Machine

/-! ## Which register a number names (R29) -/

/-- The main bank, BSEL = 00000000H (R30). -/
def mainBank (n : Nat) : Option SysReg :=
  match n with
  | 0 => some .eipc | 1 => some .eipsw | 2 => some .fepc | 3 => some .fepsw | 4 => some .ecr | 5 => some .psw
  | 11 => some .sccfg | 12 => some .scbp | 13 => some .eiic | 14 => some .feic | 15 => some .dbic
  | 16 => some .ctpc | 17 => some .ctpsw | 18 => some .dbpc | 19 => some .dbpsw | 20 => some .ctbp | 21 => some .dir
  | 22 => some (.dbg 0) | 23 => some (.dbg 1) | 24 => some (.dbg 2) | 25 => some (.dbg 3) | 26 => some (.dbg 4)
  | 27 => some (.dbg 5)
  | _ => none

/-- Bank EHSW0, BSEL = 00000010H (R55). -/
def ehsw0Bank (n : Nat) : Option SysReg :=
  match n with
  | 0 => some .swCtl | 1 => some .swCfg | 3 => some .swBase
  | _ => none

/-- Bank EHSW1, BSEL = 00000011H (R59). -/
def ehsw1Bank (n : Nat) : Option SysReg :=
  match n with
  | 1 => some .ehCfg | 2 => some .ehReset | 3 => some .ehBase
  | _ => none

/-- The processor protection violation bank, BSEL = 00001000H (R64). -/
def violationBank (n : Nat) : Option SysReg :=
  match n with
  | 0 => some .vsecr | 1 => some .vstid | 2 => some .vsadr | 4 => some .vmecr | 5 => some .vmtid | 6 => some .vmadr
  | _ => none

/-- PA0L, PA0U, …, PA3U, numbered 6 to 13 (R64). -/
def areaRegister (n : Nat) : Option SysReg :=
  match n with
  | 6 => some (.paL 0) | 7 => some (.paU 0) | 8 => some (.paL 1) | 9 => some (.paU 1)
  | 10 => some (.paL 2) | 11 => some (.paU 2) | 12 => some (.paL 3) | 13 => some (.paU 3)
  | _ => none

/-- The processor protection setting bank, BSEL = 00001001H (R64). -/
def settingBank (n : Nat) : Option SysReg :=
  match n with
  | 0 => some .mpm | 1 => some .mpc | 2 => some .tid
  | n => areaRegister n

/-- The software paging bank, BSEL = 00001010H: mirrors of the two banks above (R64). -/
def pagingBank (n : Nat) : Option SysReg :=
  match n with
  | 0 => some .mpm | 1 => some .mpc | 2 => some .tid | 3 => some .vmecr | 4 => some .vmtid | 5 => some .vmadr
  | n => areaRegister n

/-- The user 0 bank, BSEL = 0000FF00H or 0000FFFFH: mirrors of main bank registers (R63). -/
def userBank (n : Nat) : Option SysReg :=
  match n with
  | 5 => some .psw | 16 => some .ctpc | 17 => some .ctpsw | 20 => some .ctbp
  | _ => none

/-- The registers common to every bank (R29). -/
def commonRegister (n : Nat) : Option SysReg :=
  match n with
  | 28 => some .eiwr | 29 => some .fewr | 30 => some .dbwr | 31 => some .bsel
  | _ => none

/-- The bank that BSEL selects; a value that selects no defined bank has no register (R27, U3, log 11). -/
def selectedBank (bsel : Word) (n : Nat) : Option SysReg :=
  if bsel = 0x00000000 then mainBank n
  else if bsel = 0x00000010 then ehsw0Bank n
  else if bsel = 0x00000011 then ehsw1Bank n
  else if bsel = 0x00001000 then violationBank n
  else if bsel = 0x00001001 then settingBank n
  else if bsel = 0x00001010 then pagingBank n
  else if bsel = 0x0000FF00 ∨ bsel = 0x0000FFFF then userBank n
  else none

/-- SR[n], as a name; none for a number that is reserved in the selected bank (R29, R54). -/
def resolve (bsel : Word) (n : RegId) : Option SysReg :=
  if n.toNat < 28 then selectedBank bsel n.toNat else commonRegister n.toNat

/-! ## Reading (R468) -/

/-- The content of a system register. DIR reads as a free value (U9, log 15); MPM reads 0 without the protection function
(R563). -/
def State.readSys (s : State) (r : SysReg) : Word :=
  match r with
  | .eipc => s.sys.eipc | .eipsw => s.sys.eipsw | .fepc => s.sys.fepc | .fepsw => s.sys.fepsw | .ecr => s.sys.ecr
  | .psw => s.psw | .sccfg => s.sys.sccfg | .scbp => s.sys.scbp | .eiic => s.sys.eiic | .feic => s.sys.feic
  | .dbic => s.sys.dbic | .ctpc => s.sys.ctpc | .ctpsw => s.sys.ctpsw | .dbpc => s.sys.dbpc | .dbpsw => s.sys.dbpsw
  | .ctbp => s.sys.ctbp | .dir => Config.freeWord s.free | .dbg n => s.sys.dbg[n]
  | .eiwr => s.sys.eiwr | .fewr => s.sys.fewr | .dbwr => s.sys.dbwr | .bsel => s.sys.bsel
  | .swCtl => s.sys.swCtl | .swCfg => s.sys.swCfg | .swBase => s.sys.swBase
  | .ehCfg => s.sys.ehCfg | .ehReset => s.sys.ehReset | .ehBase => s.sys.ehBase
  | .mpm => s.mpm | .mpc => s.sys.mpc | .tid => s.sys.tid | .paL n => s.sys.paL[n] | .paU n => s.sys.paU[n]
  | .vmecr => s.sys.vmecr | .vmtid => s.sys.vmtid | .vmadr => s.sys.vmadr
  | .vsecr => s.sys.vsecr | .vstid => s.sys.vstid | .vsadr => s.sys.vsadr

/-! ## Writing -/

/-- The write rule of a system register other than PSW, MPM, MPC and SW_CTL: which bits of v it takes (the rule of
10_state.md that names it; U6, U7, U11, logs 12, 13, 15, 17, 18). ECR, DIR, EH_CFG, EH_RESET and EH_BASE keep their value. -/
def SysRegs.store (y : SysRegs) (r : SysReg) (v : Word) : SysRegs :=
  match r with
  | .eipc => { y with eipc := sext26 v }
  | .eipsw => { y with eipsw := v &&& 0x00070EFF }
  | .fepc => { y with fepc := sext26 v }
  | .fepsw => { y with fepsw := v &&& 0x00070EFF }
  | .sccfg => { y with sccfg := v &&& 0xFF }
  | .scbp => { y with scbp := v }
  | .eiic => { y with eiic := v }
  | .feic => { y with feic := v }
  | .dbic => { y with dbic := v }
  | .ctpc => { y with ctpc := sext26 v }
  | .ctpsw => { y with ctpsw := v &&& 0x00070EFF }
  | .dbpc => { y with dbpc := v }
  | .dbpsw => { y with dbpsw := v }
  | .ctbp => { y with ctbp := pcmask v }
  | .dbg n => { y with dbg := y.dbg.set n v }
  | .eiwr => { y with eiwr := v }
  | .fewr => { y with fewr := v }
  | .dbwr => { y with dbwr := v }
  | .bsel => { y with bsel := v }
  | .swCfg => { y with swCfg := v &&& 1 }
  | .swBase => { y with swBase := v &&& 0xFFFFE000 }
  | .tid => { y with tid := v }
  | .paL n => { y with paL := y.paL.set n (sext26 v &&& 0xFFFFFFF3) }
  | .paU n => { y with paU := y.paU.set n (v &&& 0xFFFFFFF7) }
  | .vmecr => { y with vmecr := v &&& 0x7E }
  | .vmtid => { y with vmtid := v }
  | .vmadr => { y with vmadr := v }
  | .vsecr => { y with vsecr := v &&& 0xFF }
  | .vstid => { y with vstid := v }
  | .vsadr => { y with vsadr := pcmask v }
  | .ecr | .psw | .dir | .swCtl | .ehCfg | .ehReset | .ehBase | .mpm | .mpc => y

/-- The registers of the processor protection group (R64). -/
def SysReg.protectionGroup (r : SysReg) : Bool :=
  match r with
  | .mpm | .mpc | .tid | .paL _ | .paU _ | .vmecr | .vmtid | .vmadr | .vsecr | .vstid | .vsadr => true
  | .eipc | .eipsw | .fepc | .fepsw | .ecr | .psw | .sccfg | .scbp | .eiic | .feic | .dbic | .ctpc | .ctpsw | .dbpc
  | .dbpsw | .ctbp | .dir | .dbg _ | .eiwr | .fewr | .dbwr | .bsel | .swCtl | .swCfg | .swBase | .ehCfg | .ehReset
  | .ehBase => false

/-- The PSW that LDSR writes in the T state: bits 7-0 and 18-16 from v, as MPM allows; bits 11-9 keep their value (R42, R44,
log 14). -/
def State.ldsrPsw (s : State) (v : Word) : Word :=
  legalPsw s.mpm ((v &&& 0xFFFFF1FF) ||| (s.psw &&& 0x00000E00))

/-- LDSR to the PSW in the T state; a change of IMP may lag (R44, R621, U13, log 19). -/
def State.writePsw (s : State) (v : Word) : State :=
  let t := { s with psw := s.ldsrPsw v }
  if t.pswIMP = s.pswIMP then t else { t with impOld := s.impInForce, impLag := s.product.impDelay }

/-- LDSR to the PSW in the NT state: bits 5-0 only, and no violation (R44, R562). -/
def State.writePswLow (s : State) (v : Word) : State :=
  { s with psw := (s.psw &&& 0xFFFFFFC0) ||| (v &&& 0x3F) }

/-- LDSR to MPM: MPE and AUE (the other bits are held as 0: R65, U10, log 16); PSW.NPV, DMP and IMP become what the new MPM
allows, at once (R42(a), (b)). -/
def State.writeMpm (s : State) (v : Word) : State :=
  { s with
    sys := { s.sys with mpm := v &&& 3 }
    psw := legalPsw v s.psw
    impLag := if v.getLsbD 0 then s.impLag else 0 }

/-- PA0L-PA3L with E = 0. -/
def clearAreas (paL : Vector Word 4) : Vector Word 4 := paL.map fun w => setBit w 0 false

/-- LDSR to MPC: ALDS = 1 clears E of every area; ALDS is 0 again when the LDSR ends (R66, R622).
Bits 31-1, which software must write as 0, are dropped, so MPC always reads 0 (log 18). -/
def State.writeMpc (s : State) (v : Word) : State :=
  if v.getLsbD 0 then { s with sys := { s.sys with paL := clearAreas s.sys.paL } } else s

/-- LDSR to SW_CTL: SET = 1 copies SW_CFG.RINT and SW_BASE to EH_CFG and EH_BASE; SET reads 0 (R56, D10, log 31).
Bits 31-1 are dropped, so SW_CTL always reads 0 (log 18). -/
def State.writeSwCtl (s : State) (v : Word) : State :=
  if v.getLsbD 0 then
    { s with sys := { s.sys with ehCfg := s.sys.swCfg &&& 1, ehBase := baseMask s.sys.swBase } }
  else s

/-- SR[n] <- v where nothing blocks the write, through the register's own write rule (R463). Without the protection function
the writes to its group are ignored (D1, log 33). -/
def State.writeSys (s : State) (r : SysReg) (v : Word) : State :=
  if r.protectionGroup && !s.product.protectionPresent then s
  else
    match r with
    | .psw => s.writePsw v
    | .mpm => s.writeMpm v
    | .mpc => s.writeMpc v
    | .swCtl => s.writeSwCtl v
    | r => { s with sys := s.sys.store r v }

/-- A system register protection violation is recorded, without an exception (R560). -/
def State.recordSysViolation (s : State) : State :=
  let y := if s.sys.vsecr = 0 then { s.sys with vstid := s.sys.tid, vsadr := s.pc } else s.sys
  { s with sys := { y with vsecr := BitVec.ofNat 32 (min ((byteOf s.sys.vsecr 0).toNat + 1) 255) } }

/-- LDSR in the T state (R560): a reserved number has no register to write (U2, log 10). -/
def State.ldsrTrusted (s : State) (r : Option SysReg) (v : Word) : State :=
  match r with
  | some r => s.writeSys r v
  | none => s

/-- LDSR in the NT state: CTBP is not protected, of the PSW only bits 31-6 are; a write to any other number is blocked and
recorded (R560, R561, R562, log 24). -/
def State.ldsrUntrusted (s : State) (r : Option SysReg) (v : Word) : State :=
  match r with
  | some .ctbp => s.writeSys .ctbp v
  | some .psw => s.writePswLow v
  | _ => s.recordSysViolation

/-- LDSR of the value v to the number n (R463). -/
def State.ldsrTo (s : State) (n : RegId) (v : Word) : State :=
  if s.pswNPV then s.ldsrUntrusted (resolve s.sys.bsel n) v else s.ldsrTrusted (resolve s.sys.bsel n) v

/-- STSR of the number n to a register: a reserved number reads as a free value (U2, log 10), as DIR does (U9, log 15). -/
def State.stsrFrom (s : State) (n : RegId) (dst : Reg) : State :=
  match resolve s.sys.bsel n with
  | some .dir => { s.writeReg dst (s.readSys .dir) with free := s.free + 1 }
  | some r => s.writeReg dst (s.readSys r)
  | none => { s.writeReg dst (Config.freeWord s.free) with free := s.free + 1 }

end Sys2Proof.Machine
end

