-- ==== Sys2Proof/Machine/Special.lean ====
section
/-! DEFINITION. The special instructions (49_special.md) but for PREPARE and DISPOSE: software exceptions, returns, system
registers, table-driven control transfer, CAXI, HALT, NOP and the synchronisations. -/

namespace Sys2Proof.Machine

/-! ## Software exceptions -/

/-- FETRAP vector4 (R461). -/
def execFetrap (vector4 : BitVec 4) (s : State) : Result := .next (s.take (s.fetrapCause vector4))

/-- RIE, 16-bit form (R467). -/
def execRie (s : State) : Result := .next (s.take s.rieCause)

/-- RIE imm5, imm4: the operands have no effect (R467). -/
def execRieImm (_imm5 : BitVec 5) (_imm4 : BitVec 4) (s : State) : Result := .next (s.take s.rieCause)

/-- SYSCALL vector8: the table word is read without a check (R149, R473). An error that the platform reports for the table read
comes in place of the system call (log 41). -/
def execSyscall (vector8 : BitVec 8) (s : State) : Result :=
  .next (s.reading (s.syscallEntry vector8) 4 fun t => t.take (s.syscallCause vector8))

/-- TRAP vector5 (R474). -/
def execTrap (vector5 : BitVec 5) (s : State) : Result := .next (s.take (s.trapCause vector5))

/-! ## Return instructions -/

/-- CTRET: no notification (R455). -/
def execCtret (s : State) : Result := .next (s.restore s.sys.ctpc s.sys.ctpsw)

/-- EIRET (R459). -/
def execEiret (s : State) : Result := .next (s.notifyEnd.restore s.sys.eipc s.sys.eipsw)

/-- FERET (R460). -/
def execFeret (s : State) : Result := .next (s.notifyEnd.restore s.sys.fepc s.sys.fepsw)

/-- RETI: EP = 1 or NP = 0 takes EIPC and EIPSW, EP = 0 and NP = 1 FEPC and FEPSW (R466, U12, log 38). -/
def execReti (s : State) : Result :=
  .next (if !s.pswEP && s.pswNP then s.notifyEnd.restore s.sys.fepc s.sys.fepsw
    else s.notifyEnd.restore s.sys.eipc s.sys.eipsw)

/-! ## System registers and interrupt control -/

/-- LDSR reg2, regID (R463). -/
def execLdsr (reg2 : Reg) (regId : RegId) (s : State) : Result :=
  .next ((s.ldsrTo regId (s.readReg reg2)).advance 4)

/-- STSR regID, reg2 (R468). -/
def execStsr (regId : RegId) (reg2 : Reg) (s : State) : Result := .next ((s.stsrFrom regId reg2).advance 4)

/-- DI (R456). -/
def execDi (s : State) : Result := .next ((s.setPswBit 5 true).advance 4)

/-- EI (R458). -/
def execEi (s : State) : Result := .next ((s.setPswBit 5 false).advance 4)

/-! ## Table-driven control transfer -/

/-- The table address of CALLT: CTBP + zext(imm6 << 1) (R453). -/
def State.calltEntry (s : State) (imm6 : BitVec 6) : Word := s.sys.ctbp + (imm6.setWidth 32 <<< 1)

/-- CTPC and CTPSW receive the return PC and the PSW (R453). -/
def State.saveCall (s : State) : State :=
  { s with sys := { s.sys with ctpc := pcmask (s.pc + 2), ctpsw := s.psw } }

/-- CALLT imm6: a violation at the table read leaves CTPC and CTPSW as they were (R453). -/
def execCallt (imm6 : BitVec 6) (s : State) : Result :=
  .next (s.access (tableAccess (s.calltEntry imm6))
    (s.reading (s.calltEntry imm6) 2 fun t =>
      t.saveCall.setPc (s.sys.ctbp + (s.busRead16 (s.calltEntry imm6)).setWidth 32)))

/-- The table address of SWITCH: (pc + 2) + (GR[reg1] << 1) (R469). -/
def State.switchEntry (s : State) (reg1 : Reg) : Word := s.pc + 2 + s.readReg reg1 <<< 1

/-- SWITCH reg1 (R469). -/
def execSwitch (reg1 : Reg) (s : State) : Result :=
  .next (s.access (tableAccess (s.switchEntry reg1))
    (s.reading (s.switchEntry reg1) 2 fun t =>
      t.setPc (s.pc + 2 + (s.busRead16 (s.switchEntry reg1)).signExtend 32 <<< 1)))

/-! ## Others -/

/-- The word address of CAXI (R454). -/
def State.caxiAddr (s : State) (reg1 : Reg) : Word := wordAlign (s.readReg reg1)

/-- What CAXI writes back: GR[reg3] where GR[reg2] equals the word read, else the word read (R454). -/
def State.caxiStore (s : State) (reg1 reg2 reg3 : Reg) : Word :=
  if s.readReg reg2 = s.busRead32 (s.caxiAddr reg1) then s.readReg reg3 else s.busRead32 (s.caxiAddr reg1)

/-- CAXI [reg1], reg2, reg3: the write is made in both cases (R454). -/
def execCaxi (reg1 reg2 reg3 : Reg) (s : State) : Result :=
  .next (s.access (modifyAccess (s.caxiAddr reg1) 4 (isSp reg1))
    (s.reading (s.caxiAddr reg1) 4 fun t => t.writing (s.caxiAddr reg1) 4 (s.caxiStore reg1 reg2 reg3) fun u =>
      ((u.withFlags (subFlags (s.readReg reg2) (s.busRead32 (s.caxiAddr reg1)) false)).writeReg reg3
        (s.busRead32 (s.caxiAddr reg1))).advance 4))

/-- HALT: the CPU stops with the PC at the next instruction (R462). -/
def execHalt (s : State) : Result := .next { s.advance 4 with halted := true }

/-- NOP (R464). -/
def execNop (s : State) : Result := .next (s.advance 2)

/-- SYNCE: executed as SYNCM (R470). -/
def execSynce (s : State) : Result := .next (s.advance 2)

/-- SYNCM: under program order nothing is outstanding (R471, R130). -/
def execSyncm (s : State) : Result := .next (s.advance 2)

/-- SYNCP: as SYNCM (R472). -/
def execSyncp (s : State) : Result := .next (s.advance 2)

end Sys2Proof.Machine
end

