-- ==== Sys2Proof/Machine/Stack.lean ====
section
/-! DEFINITION. PREPARE and DISPOSE (49_special.md section 6). Each memory access is checked on its own; a violation stops the
instruction with the accesses before it done and sp as it was (R148), and so does an error of the platform (log 41). -/

namespace Sys2Proof.Machine

/-- Why a run of stack accesses stopped: an access violated the protection, or the platform reported an error for one. -/
inductive StackStop where
  | violation (acc : Access)
  | error (e : AccessError)
  deriving DecidableEq, Repr

/-- How far a run of stack accesses came: the state it left, the running address, and why it stopped early, if it did. -/
structure StackRun where
  state : State
  adr   : Word
  stop  : Option StackStop
  deriving DecidableEq, Repr

/-- The stores of PREPARE: adr <- adr - 4, then the register at adr AND FFFFFFFCH (R465). -/
def pushRegs : List Reg → Word → State → StackRun
  | [], adr, s => { state := s, adr := adr, stop := none }
  | r :: rs, adr, s =>
    if s.violates (pushAccess (wordAlign (adr - 4))) then
      { state := s, adr := adr - 4, stop := some (.violation (pushAccess (wordAlign (adr - 4)))) }
    else
      match s.busError (wordAlign (adr - 4)) 4 with
      | some e => { state := s.busWrite (wordAlign (adr - 4)) 4 (s.readReg r), adr := adr - 4, stop := some (.error e) }
      | none => pushRegs rs (adr - 4) (s.busWrite (wordAlign (adr - 4)) 4 (s.readReg r))

/-- The loads of DISPOSE: the register from adr AND FFFFFFFCH, then adr <- adr + 4 (R457). -/
def popRegs : List Reg → Word → State → StackRun
  | [], adr, s => { state := s, adr := adr, stop := none }
  | r :: rs, adr, s =>
    if s.violates (popAccess (wordAlign adr)) then
      { state := s, adr := adr, stop := some (.violation (popAccess (wordAlign adr))) }
    else
      match s.busError (wordAlign adr) 4 with
      | some e => { state := s.afterRead (wordAlign adr) 4, adr := adr, stop := some (.error e) }
      | none => popRegs rs (adr + 4) ((s.afterRead (wordAlign adr) 4).writeReg r (s.busRead32 (wordAlign adr)))

/-- The end of a run: the exception where an access violated or had an error, else the rest of the instruction from the last
address (R148). -/
def StackRun.finish (run : StackRun) (rest : State → Word → State) : State :=
  match run.stop with
  | some (.violation acc) => run.state.takeMdp acc
  | some (.error e) => run.state.takeError e
  | none => rest run.state run.adr

/-- The stores of a PREPARE. -/
def State.pushList (s : State) (list12 : RegList) : StackRun := pushRegs (ascending list12) (s.readReg spReg) s

/-- The loads of a DISPOSE. -/
def State.popList (s : State) (imm5 : BitVec 5) (list12 : RegList) : StackRun :=
  popRegs (descending list12) (s.readReg spReg + frameBytes imm5) s

/-- PREPARE list12, imm5 (R465). -/
def execPrepare (list12 : RegList) (imm5 : BitVec 5) (s : State) : Result :=
  .next ((s.pushList list12).finish fun t adr => (t.writeReg spReg (adr - frameBytes imm5)).advance 4)

/-- PREPARE list12, imm5, sp: ep receives the new sp (R465). -/
def execPrepareSp (list12 : RegList) (imm5 : BitVec 5) (s : State) : Result :=
  .next ((s.pushList list12).finish fun t adr =>
    ((t.writeReg spReg (adr - frameBytes imm5)).writeReg epReg (adr - frameBytes imm5)).advance 4)

/-- PREPARE list12, imm5, imm16, sign-extended (R465). -/
def execPrepareImm16 (list12 : RegList) (imm5 : BitVec 5) (imm16 : Half) (s : State) : Result :=
  .next ((s.pushList list12).finish fun t adr =>
    ((t.writeReg spReg (adr - frameBytes imm5)).writeReg epReg (sext16 imm16)).advance 6)

/-- PREPARE list12, imm5, imm16, shifted (R465). -/
def execPrepareImm16Hi (list12 : RegList) (imm5 : BitVec 5) (imm16 : Half) (s : State) : Result :=
  .next ((s.pushList list12).finish fun t adr =>
    ((t.writeReg spReg (adr - frameBytes imm5)).writeReg epReg (upper16 imm16)).advance 6)

/-- PREPARE list12, imm5, imm32 (R465). -/
def execPrepareImm32 (list12 : RegList) (imm5 : BitVec 5) (imm32 : Word) (s : State) : Result :=
  .next ((s.pushList list12).finish fun t adr =>
    ((t.writeReg spReg (adr - frameBytes imm5)).writeReg epReg imm32).advance 8)

/-- DISPOSE imm5, list12 (R457). -/
def execDispose (imm5 : BitVec 5) (list12 : RegList) (s : State) : Result :=
  .next ((s.popList imm5 list12).finish fun t adr => (t.writeReg spReg adr).advance 4)

/-- DISPOSE imm5, list12, [reg1]: reg1 is read after the loads (R457). -/
def execDisposeJmp (imm5 : BitVec 5) (list12 : RegList) (reg1 : Reg) (s : State) : Result :=
  .next ((s.popList imm5 list12).finish fun t adr =>
    (t.writeReg spReg adr).setPc ((t.writeReg spReg adr).readReg reg1))

end Sys2Proof.Machine
end

