-- ==== Sys2Proof/Machine/Dispatch.lean ====
section
/-! DEFINITION. The meaning of each instruction: one arm per constructor of Instr, one direct call each. -/

namespace Sys2Proof.Machine

def exec (i : Instr) (s : State) : Host.Outcome State Fault Refusal :=
  match i with
  | .nop => Sys2Proof.Machine.execNop s
  | .synce => Sys2Proof.Machine.execSynce s
  | .syncm => Sys2Proof.Machine.execSyncm s
  | .syncp => Sys2Proof.Machine.execSyncp s
  | .mov reg1 reg2 => Sys2Proof.Machine.execMov reg1 reg2 s
  | .not reg1 reg2 => Sys2Proof.Machine.execNot reg1 reg2 s
  | .rie => Sys2Proof.Machine.execRie s
  | .switch reg1 => Sys2Proof.Machine.execSwitch reg1 s
  | .fetrap vector4 => Sys2Proof.Machine.execFetrap vector4 s
  | .divh reg1 reg2 => Sys2Proof.Machine.execDivh reg1 reg2 s
  | .jmp reg1 => Sys2Proof.Machine.execJmp reg1 s
  | .sldBu disp4 reg2 => Sys2Proof.Machine.execSldBu disp4 reg2 s
  | .sldHu disp4 reg2 => Sys2Proof.Machine.execSldHu disp4 reg2 s
  | .zxb reg1 => Sys2Proof.Machine.execZxb reg1 s
  | .sxb reg1 => Sys2Proof.Machine.execSxb reg1 s
  | .zxh reg1 => Sys2Proof.Machine.execZxh reg1 s
  | .sxh reg1 => Sys2Proof.Machine.execSxh reg1 s
  | .satsubr reg1 reg2 => Sys2Proof.Machine.execSatsubr reg1 reg2 s
  | .satsub reg1 reg2 => Sys2Proof.Machine.execSatsub reg1 reg2 s
  | .satadd reg1 reg2 => Sys2Proof.Machine.execSatadd reg1 reg2 s
  | .mulh reg1 reg2 => Sys2Proof.Machine.execMulh reg1 reg2 s
  | .or reg1 reg2 => Sys2Proof.Machine.execOr reg1 reg2 s
  | .xor reg1 reg2 => Sys2Proof.Machine.execXor reg1 reg2 s
  | .and reg1 reg2 => Sys2Proof.Machine.execAnd reg1 reg2 s
  | .tst reg1 reg2 => Sys2Proof.Machine.execTst reg1 reg2 s
  | .subr reg1 reg2 => Sys2Proof.Machine.execSubr reg1 reg2 s
  | .sub reg1 reg2 => Sys2Proof.Machine.execSub reg1 reg2 s
  | .add reg1 reg2 => Sys2Proof.Machine.execAdd reg1 reg2 s
  | .cmp reg1 reg2 => Sys2Proof.Machine.execCmp reg1 reg2 s
  | .movImm5 imm5 reg2 => Sys2Proof.Machine.execMovImm5 imm5 reg2 s
  | .sataddImm5 imm5 reg2 => Sys2Proof.Machine.execSataddImm5 imm5 reg2 s
  | .addImm5 imm5 reg2 => Sys2Proof.Machine.execAddImm5 imm5 reg2 s
  | .cmpImm5 imm5 reg2 => Sys2Proof.Machine.execCmpImm5 imm5 reg2 s
  | .callt imm6 => Sys2Proof.Machine.execCallt imm6 s
  | .shrImm5 imm5 reg2 => Sys2Proof.Machine.execShrImm5 imm5 reg2 s
  | .sarImm5 imm5 reg2 => Sys2Proof.Machine.execSarImm5 imm5 reg2 s
  | .shlImm5 imm5 reg2 => Sys2Proof.Machine.execShlImm5 imm5 reg2 s
  | .mulhImm5 imm5 reg2 => Sys2Proof.Machine.execMulhImm5 imm5 reg2 s
  | .jrDisp32 disp31 => Sys2Proof.Machine.execJrDisp32 disp31 s
  | .jarlDisp32 disp31 reg1 => Sys2Proof.Machine.execJarlDisp32 disp31 reg1 s
  | .sldB disp7 reg2 => Sys2Proof.Machine.execSldB disp7 reg2 s
  | .sstB reg2 disp7 => Sys2Proof.Machine.execSstB reg2 disp7 s
  | .sldH disp7 reg2 => Sys2Proof.Machine.execSldH disp7 reg2 s
  | .sstH reg2 disp7 => Sys2Proof.Machine.execSstH reg2 disp7 s
  | .sldW disp6 reg2 => Sys2Proof.Machine.execSldW disp6 reg2 s
  | .sstW reg2 disp6 => Sys2Proof.Machine.execSstW reg2 disp6 s
  | .bcond cccc disp8 => Sys2Proof.Machine.execBcond cccc disp8 s
  | .addi imm16 reg1 reg2 => Sys2Proof.Machine.execAddi imm16 reg1 reg2 s
  | .movImm32 imm32 reg1 => Sys2Proof.Machine.execMovImm32 imm32 reg1 s
  | .movea imm16 reg1 reg2 => Sys2Proof.Machine.execMovea imm16 reg1 reg2 s
  | .movhi imm16 reg1 reg2 => Sys2Proof.Machine.execMovhi imm16 reg1 reg2 s
  | .satsubi imm16 reg1 reg2 => Sys2Proof.Machine.execSatsubi imm16 reg1 reg2 s
  | .dispose imm5 list12 => Sys2Proof.Machine.execDispose imm5 list12 s
  | .disposeJmp imm5 list12 reg1 => Sys2Proof.Machine.execDisposeJmp imm5 list12 reg1 s
  | .ori imm16 reg1 reg2 => Sys2Proof.Machine.execOri imm16 reg1 reg2 s
  | .xori imm16 reg1 reg2 => Sys2Proof.Machine.execXori imm16 reg1 reg2 s
  | .andi imm16 reg1 reg2 => Sys2Proof.Machine.execAndi imm16 reg1 reg2 s
  | .mulhi imm16 reg1 reg2 => Sys2Proof.Machine.execMulhi imm16 reg1 reg2 s
  | .jmpDisp32 disp31 reg1 => Sys2Proof.Machine.execJmpDisp32 disp31 reg1 s
  | .ldB disp16 reg1 reg2 => Sys2Proof.Machine.execLdB disp16 reg1 reg2 s
  | .ldH disp15 reg1 reg2 => Sys2Proof.Machine.execLdH disp15 reg1 reg2 s
  | .ldW disp15 reg1 reg2 => Sys2Proof.Machine.execLdW disp15 reg1 reg2 s
  | .stB reg2 disp16 reg1 => Sys2Proof.Machine.execStB reg2 disp16 reg1 s
  | .stH reg2 disp15 reg1 => Sys2Proof.Machine.execStH reg2 disp15 reg1 s
  | .stW reg2 disp15 reg1 => Sys2Proof.Machine.execStW reg2 disp15 reg1 s
  | .prepare list12 imm5 => Sys2Proof.Machine.execPrepare list12 imm5 s
  | .prepareSp list12 imm5 => Sys2Proof.Machine.execPrepareSp list12 imm5 s
  | .prepareImm16 list12 imm5 imm16 => Sys2Proof.Machine.execPrepareImm16 list12 imm5 imm16 s
  | .prepareImm16Hi list12 imm5 imm16 => Sys2Proof.Machine.execPrepareImm16Hi list12 imm5 imm16 s
  | .prepareImm32 list12 imm5 imm32 => Sys2Proof.Machine.execPrepareImm32 list12 imm5 imm32 s
  | .ldBDisp23 disp23 reg1 reg3 => Sys2Proof.Machine.execLdBDisp23 disp23 reg1 reg3 s
  | .ldHDisp23 disp22h reg1 reg3 => Sys2Proof.Machine.execLdHDisp23 disp22h reg1 reg3 s
  | .ldWDisp23 disp22h reg1 reg3 => Sys2Proof.Machine.execLdWDisp23 disp22h reg1 reg3 s
  | .stBDisp23 reg3 disp23 reg1 => Sys2Proof.Machine.execStBDisp23 reg3 disp23 reg1 s
  | .stWDisp23 reg3 disp22h reg1 => Sys2Proof.Machine.execStWDisp23 reg3 disp22h reg1 s
  | .ldBuDisp23 disp23 reg1 reg3 => Sys2Proof.Machine.execLdBuDisp23 disp23 reg1 reg3 s
  | .ldHuDisp23 disp22h reg1 reg3 => Sys2Proof.Machine.execLdHuDisp23 disp22h reg1 reg3 s
  | .stHDisp23 reg3 disp22h reg1 => Sys2Proof.Machine.execStHDisp23 reg3 disp22h reg1 s
  | .jrDisp22 disp21 => Sys2Proof.Machine.execJrDisp22 disp21 s
  | .jarlDisp22 disp21 reg2 => Sys2Proof.Machine.execJarlDisp22 disp21 reg2 s
  | .ldBu disp16 reg1 reg2 => Sys2Proof.Machine.execLdBu disp16 reg1 reg2 s
  | .set1 bit3 disp16 reg1 => Sys2Proof.Machine.execSet1 bit3 disp16 reg1 s
  | .not1 bit3 disp16 reg1 => Sys2Proof.Machine.execNot1 bit3 disp16 reg1 s
  | .clr1 bit3 disp16 reg1 => Sys2Proof.Machine.execClr1 bit3 disp16 reg1 s
  | .tst1 bit3 disp16 reg1 => Sys2Proof.Machine.execTst1 bit3 disp16 reg1 s
  | .ldHu disp15 reg1 reg2 => Sys2Proof.Machine.execLdHu disp15 reg1 reg2 s
  | .setf cccc reg2 => Sys2Proof.Machine.execSetf cccc reg2 s
  | .rieImm imm5 imm4 => Sys2Proof.Machine.execRieImm imm5 imm4 s
  | .ldsr reg2 regId => Sys2Proof.Machine.execLdsr reg2 regId s
  | .stsr regId reg2 => Sys2Proof.Machine.execStsr regId reg2 s
  | .shr reg1 reg2 => Sys2Proof.Machine.execShr reg1 reg2 s
  | .shr3 reg1 reg2 reg3 => Sys2Proof.Machine.execShr3 reg1 reg2 reg3 s
  | .sar reg1 reg2 => Sys2Proof.Machine.execSar reg1 reg2 s
  | .sar3 reg1 reg2 reg3 => Sys2Proof.Machine.execSar3 reg1 reg2 reg3 s
  | .shl reg1 reg2 => Sys2Proof.Machine.execShl reg1 reg2 s
  | .shl3 reg1 reg2 reg3 => Sys2Proof.Machine.execShl3 reg1 reg2 reg3 s
  | .set1Reg reg2 reg1 => Sys2Proof.Machine.execSet1Reg reg2 reg1 s
  | .not1Reg reg2 reg1 => Sys2Proof.Machine.execNot1Reg reg2 reg1 s
  | .clr1Reg reg2 reg1 => Sys2Proof.Machine.execClr1Reg reg2 reg1 s
  | .tst1Reg reg2 reg1 => Sys2Proof.Machine.execTst1Reg reg2 reg1 s
  | .caxi reg1 reg2 reg3 => Sys2Proof.Machine.execCaxi reg1 reg2 reg3 s
  | .trap vector5 => Sys2Proof.Machine.execTrap vector5 s
  | .halt => Sys2Proof.Machine.execHalt s
  | .reti => Sys2Proof.Machine.execReti s
  | .ctret => Sys2Proof.Machine.execCtret s
  | .eiret => Sys2Proof.Machine.execEiret s
  | .feret => Sys2Proof.Machine.execFeret s
  | .di => Sys2Proof.Machine.execDi s
  | .ei => Sys2Proof.Machine.execEi s
  | .syscall vector8 => Sys2Proof.Machine.execSyscall vector8 s
  | .sasf cccc reg2 => Sys2Proof.Machine.execSasf cccc reg2 s
  | .mul reg1 reg2 reg3 => Sys2Proof.Machine.execMul reg1 reg2 reg3 s
  | .mulu reg1 reg2 reg3 => Sys2Proof.Machine.execMulu reg1 reg2 reg3 s
  | .mulImm9 imm9 reg2 reg3 => Sys2Proof.Machine.execMulImm9 imm9 reg2 reg3 s
  | .muluImm9 imm9 reg2 reg3 => Sys2Proof.Machine.execMuluImm9 imm9 reg2 reg3 s
  | .divh3 reg1 reg2 reg3 => Sys2Proof.Machine.execDivh3 reg1 reg2 reg3 s
  | .divhu reg1 reg2 reg3 => Sys2Proof.Machine.execDivhu reg1 reg2 reg3 s
  | .div reg1 reg2 reg3 => Sys2Proof.Machine.execDiv reg1 reg2 reg3 s
  | .divu reg1 reg2 reg3 => Sys2Proof.Machine.execDivu reg1 reg2 reg3 s
  | .divq reg1 reg2 reg3 => Sys2Proof.Machine.execDivq reg1 reg2 reg3 s
  | .divqu reg1 reg2 reg3 => Sys2Proof.Machine.execDivqu reg1 reg2 reg3 s
  | .cmovImm5 cccc imm5 reg2 reg3 => Sys2Proof.Machine.execCmovImm5 cccc imm5 reg2 reg3 s
  | .cmov cccc reg1 reg2 reg3 => Sys2Proof.Machine.execCmov cccc reg1 reg2 reg3 s
  | .bsw reg2 reg3 => Sys2Proof.Machine.execBsw reg2 reg3 s
  | .bsh reg2 reg3 => Sys2Proof.Machine.execBsh reg2 reg3 s
  | .hsw reg2 reg3 => Sys2Proof.Machine.execHsw reg2 reg3 s
  | .hsh reg2 reg3 => Sys2Proof.Machine.execHsh reg2 reg3 s
  | .sch0r reg2 reg3 => Sys2Proof.Machine.execSch0r reg2 reg3 s
  | .sch1r reg2 reg3 => Sys2Proof.Machine.execSch1r reg2 reg3 s
  | .sch0l reg2 reg3 => Sys2Proof.Machine.execSch0l reg2 reg3 s
  | .sch1l reg2 reg3 => Sys2Proof.Machine.execSch1l reg2 reg3 s
  | .sbf cccc reg1 reg2 reg3 => Sys2Proof.Machine.execSbf cccc reg1 reg2 reg3 s
  | .satsub3 reg1 reg2 reg3 => Sys2Proof.Machine.execSatsub3 reg1 reg2 reg3 s
  | .adf cccc reg1 reg2 reg3 => Sys2Proof.Machine.execAdf cccc reg1 reg2 reg3 s
  | .satadd3 reg1 reg2 reg3 => Sys2Proof.Machine.execSatadd3 reg1 reg2 reg3 s
  | .mac reg1 reg2 reg3 reg4 => Sys2Proof.Machine.execMac reg1 reg2 reg3 reg4 s
  | .macu reg1 reg2 reg3 reg4 => Sys2Proof.Machine.execMacu reg1 reg2 reg3 reg4 s

end Sys2Proof.Machine
end

