-- ==== Sys2Proof/Machine/Cycle.lean ====
section
/-! DEFINITION. One step of the machine in the order of R513: reset, HALT mode, interrupts, execution check, fetch error,
decode, execute. -/

namespace Sys2Proof.Machine

/-! ## Fetch (R108, R123) -/

/-- The address of halfword k of the instruction at the PC (R123, D3, log 25). -/
def State.fetchAddr (s : State) (k : Nat) : Word := pcmask (s.pc + BitVec.ofNat 32 (2 * k))

/-- Those of the first k halfwords of the instruction that the platform answers. -/
def State.ioHalves (s : State) (k : Nat) : List Nat := (List.range k).filter fun j => s.anyIo (s.fetchAddr j) 2

/-- The state after the fetch of k halfwords: the platform sees those that it answers (R121, R123, log 43). -/
def State.fetchAfter (s : State) (k : Nat) : State :=
  { s with
    answers := s.answers.drop (s.ioHalves k).length
    events := ((s.ioHalves k).map fun j => .busFetch (s.fetchAddr j)).reverse ++ s.events }

/-- Halfword k of the instruction at the PC. -/
def State.fetchHalf (s : State) (k : Nat) : Half :=
  if s.anyIo (s.fetchAddr k) 2 then lowHalf (s.fetchAfter k).answer.value
  else s.read8 (s.fetchAddr k + 1) ++ s.read8 (s.fetchAddr k)

/-- The eight bytes from the PC on, the low byte of each halfword first: the longest instruction (R108, R170). -/
def State.fetchBytes (s : State) : List Byte := (List.range 4).flatMap fun k => halfBytes (s.fetchHalf k)

/-- The length in bytes of the code at the PC, a reserved one too (R188, D16). -/
def State.fetchLength (s : State) : Nat := instrBytes (halfAt s.fetchBytes 0) (halfAt s.fetchBytes 1)

/-- Halfword k violates the execution protection: IMP is in force and no area with X = 1 covers it (R143, D12, log 34). -/
def State.halfViolates (s : State) (k : Nat) : Bool :=
  s.impInForce && !s.perm .x (s.fetchAddr k).toNat ((s.fetchAddr k).toNat + 1)

/-- An execution protection violation: some halfword of the instruction violates (R143). -/
def State.fetchViolates (s : State) : Bool := (List.range (s.fetchLength / 2)).any s.halfViolates

/-- The error that the platform reports for the fetch of halfword k, when those before it had none. -/
def State.halfError (s : State) (k : Nat) : Option AccessError := (s.fetchAfter k).cycleError (s.fetchAddr k) 2

/-- How many halfwords may be fetched: those of the instruction before the first that violates (R123, R513, log 43). -/
def State.fetchable (s : State) : Nat := ((List.range (s.fetchLength / 2)).takeWhile fun k => !s.halfViolates k).length

/-- How many halfwords are fetched: up to the first with an error. -/
def State.fetchCount (s : State) : Nat := cyclesUntil (fun k => (s.halfError k).isSome) s.fetchable

/-- The state after the fetch. -/
def State.fetchDone (s : State) : State := s.fetchAfter s.fetchCount

/-- The error of the fetch: the MEP that the sample names, else that of the first halfword whose fetch has one (R122, R508,
log 41). -/
def State.fetchError (s : State) (mep : Option (Fin 4)) : Option AccessError :=
  mep.map .mep <|> (List.range s.fetchable).findSome? s.halfError

/-- The code at the PC, halfword k in bits 16k+15 to 16k, 0 beyond its length: what the product's rows are matched against
(D16, D17, logs 22, 23). -/
def State.code (s : State) : BitVec 64 :=
  let half k := if 2 * k < s.fetchLength then s.fetchHalf k else 0
  half 3 ++ half 2 ++ half 1 ++ half 0

/-- The UCPOP code of a coprocessor opcode of the product, told by the whole code: coprocessor_opcode(insn) and
ucpop_code (R8, R170, R195, R509, D17). -/
def coprocCode (rows : List CoprocRow) (c : BitVec 64) : Option (Fin 8) :=
  (rows.find? fun row => c &&& row.mask == row.value).map CoprocRow.code

/-- The instruction as which the product lets a reserved code act, if it does (R193, U15, log 22). -/
def reservedAction (rows : List ReservedRow) (c : BitVec 64) : Option Instr :=
  (rows.find? fun row => c &&& row.mask == row.value).bind fun row =>
    decodeTableWord 64 ((c &&& row.keep) ||| row.put).toNat

/-! ## Decode and execute (R513, steps 8 and 9) -/

/-- The instruction as which the code at the PC runs: the one that it decodes to, else the one as which the product lets it
act (R193). -/
def State.instrAt (s : State) : Option Instr :=
  match decode s.fetchBytes with
  | .instr i _ => some i
  | .rejected _ => reservedAction s.product.reserved s.code

/-- The code at the PC of s runs on the state t after its fetch: UCPOP for a coprocessor opcode of the product (log 23), RIE for
a reserved opcode that acts as no instruction (R193, D16, log 22), else the instruction's own rule. -/
def State.runDecoded (s t : State) : Result :=
  match coprocCode s.product.coproc s.code with
  | some k => .next (t.take (t.ucpopCause k))
  | none =>
    match s.instrAt with
    | some i => exec i t
    | none => .next (t.take t.rieCause)

/-- Steps 7 to 9: the execution check, the fetch error that the platform reports, then the instruction. -/
def State.runInstruction (s : State) (mep : Option (Fin 4)) : Result :=
  if s.fetchViolates then .next s.fetchDone.takeMip
  else
    match s.fetchError mep with
    | some e => .next (s.fetchDone.takeError e)
    | none => s.runDecoded s.fetchDone.tickImp

/-! ## The order of a step (R511, R512, R513) -/

/-- The interrupt or asynchronous exception that is accepted before the instruction, highest priority first. -/
def State.accepted (s : State) (p : Sample) : Option Cause :=
  if p.fenmi then some s.fenmiCause
  else
    match p.syserr with
    | some k => some (s.syserrCause k)
    | none =>
      if p.feint && !s.pswNP then some s.feintCause
      else
        match p.int with
        | some n => if !s.pswNP && !s.pswID then some (s.intCause n) else none
        | none => none

/-- A request is present that ends the HALT mode, whether or not it can be accepted (R462, D19, log 27). -/
def wakes (p : Sample) : Bool := p.fenmi || p.syserr.isSome || p.feint || p.int.isSome

/-- The sample of this step (D2): the next of the list, nothing when the list has ended. -/
def State.sample (s : State) : Sample := s.inputs.headD Sample.none

/-- The sample of this step is used up. -/
def State.popSample (s : State) : State := { s with inputs := s.inputs.tail }

/-- Steps 3 to 9 on a running CPU. -/
def State.runStep (s : State) (p : Sample) : Result :=
  match s.accepted p with
  | some c => .next (s.take c)
  | none => s.runInstruction p.mep

/-- Steps 1 to 9 with the sample p. -/
def State.cycleWith (s : State) (p : Sample) : Result :=
  if p.reset then .next s.resetFrom
  else if s.halted && !wakes p then .next s
  else State.runStep { s with halted := false } p

/-- One step. -/
def cycle (s : State) : Result := s.popSample.cycleWith s.sample

/-! ## Placing an instruction (log 29) -/

/-- Bytes written from the PC on, two to each halfword address of the fetch. -/
def storeFetch (s : State) : Nat → List Byte → State
  | k, lo :: hi :: bs => storeFetch ((s.write8 (s.fetchAddr k) lo).write8 (s.fetchAddr k + 1) hi) (k + 1) bs
  | k, [lo] => s.write8 (s.fetchAddr k) lo
  | _, [] => s

/-- The answers with which the platform gives those halfwords of the code that it answers (log 43). -/
def placedAnswers (s : State) (bs : List Byte) : List Answer :=
  (s.ioHalves (instrBytes (halfAt bs 0) (halfAt bs 1) / 2)).map fun k =>
    { value := (halfAt bs k).setWidth 32, error := none }

/-- The state in which the very next step fetches and runs the table word w: its bytes stand at the PC (where the platform
answers, they are its next answers), the CPU runs, nothing is requested and no execution check is in force. -/
def placeWord (s : State) (nbits w : Nat) : State :=
  { storeFetch s 0 (tableWordBytes nbits w) with
    psw := setBit s.psw 16 false, halted := false, impLag := 0, inputs := []
    answers := placedAnswers s (tableWordBytes nbits w) ++ s.answers }

end Sys2Proof.Machine
end

