-- ==== Sys2Proof/Machine/Step.lean ====
section
/-! DEFINITION. The step function of the machine, and the placing of an instruction where it fetches. -/

namespace Sys2Proof.Machine

/-- One step of the V850E2S (R513). -/
def step (s : State) : Host.Outcome State Fault Refusal := cycle s

/-- s with the instruction of the bits w stored where step fetches its next instruction (log 29). -/
def State.withFetchWord (s : State) (nbits w : Nat) : State := placeWord s nbits w

end Sys2Proof.Machine
end

