-- ==== Sys2Proof/Safety.lean ====
section
/-! DEFINITION. The terms of the statements: what stays as it was between two states, the form of the registers that every
step keeps, and when a step simply runs the instruction at the PC. -/

namespace Sys2Proof.Safety

open Sys2Proof.Machine

/-! ## What stays as it was -/

/-- What a register reads as after the value v was written to it: r0 discards writes (R21). -/
def written (r : Reg) (v : Word) : Word := if r = 0 then 0 else v

/-- Every general register outside the list reads as before. -/
def RegsExcept (rs : List Reg) (s t : State) : Prop := ∀ r : Reg, r ∉ rs → t.readReg r = s.readReg r

/-- Every PSW bit outside the list is as before. -/
def PswExcept (bits : List Nat) (s t : State) : Prop :=
  ∀ k : Nat, k ∉ bits → t.psw.getLsbD k = s.psw.getLsbD k

/-- Every byte of memory reads as before. -/
def MemSame (s t : State) : Prop := ∀ a : Word, t.read8 a = s.read8 a

/-- Every byte of memory outside the n bytes from a on reads as before. -/
def MemExcept (a : Word) (n : Nat) (s t : State) : Prop :=
  ∀ b : Word, (∀ k : Nat, k < n → b ≠ a + BitVec.ofNat 32 k) → t.read8 b = s.read8 b

/-- The machine outside its registers and memory is as before: HALT mode, the lag of PSW.IMP, the platform, the product. -/
def EnvSame (s t : State) : Prop :=
  t.halted = s.halted ∧ t.impOld = s.impOld ∧ t.impLag = s.impLag ∧ t.inputs = s.inputs ∧ t.answers = s.answers ∧
    t.events = s.events ∧ t.product = s.product

/-- Every system register is as before, and so are the rest of the machine and the counter of free values. -/
def RestSame (s t : State) : Prop := t.sys = s.sys ∧ t.free = s.free ∧ EnvSame s t

/-- The frame of an instruction that stores nothing: it may change the listed registers, the listed PSW bits and the PC. -/
def Frame (rs : List Reg) (bits : List Nat) (s t : State) : Prop :=
  RegsExcept rs s t ∧ PswExcept bits s t ∧ MemSame s t ∧ RestSame s t

/-- The frame of an instruction that stores n bytes from a on. -/
def StoreFrame (rs : List Reg) (bits : List Nat) (a : Word) (n : Nat) (s t : State) : Prop :=
  RegsExcept rs s t ∧ PswExcept bits s t ∧ MemExcept a n s t ∧ RestSame s t

/-- The PSW bits Z, S, OV, CY. -/
def arithBits : List Nat := [0, 1, 2, 3]

/-- The instruction ends at the address after its n bytes (R25). -/
def Falls (n : Nat) (s t : State) : Prop := t.pc = pcmask (s.pc + BitVec.ofNat 32 n)

/-- HALT mode, the samples and answers still to come, the free counter and the product are as before. -/
def MachineSame (s t : State) : Prop :=
  t.halted = s.halted ∧ t.inputs = s.inputs ∧ t.answers = s.answers ∧ t.free = s.free ∧ t.product = s.product

/-- Only the platform has been asked: registers, memory and the rest of the machine are as before, but for the answers still
to come and the events. -/
def OnlyAsked (s t : State) : Prop := t = { s with answers := t.answers, events := t.events }

/-- The n bytes from a on are plain memory: the platform answers at none of them (R121, log 3). -/
def Plain (s : State) (a : Word) (n : Nat) : Prop := ∀ k : Nat, k < n → s.isIo (a + BitVec.ofNat 32 k) = false

/-! ## Results -/

/-- The register r receives v; nothing else changes but the PC, which moves past the n bytes. -/
def SetsReg (r : Reg) (v : Word) (n : Nat) (s t : State) : Prop :=
  t.readReg r = written r v ∧ Frame [r] [] s t ∧ Falls n s t

/-- CY, OV, S, Z are those of the addition a + b + c (R293). -/
def SumFlags (a b : Word) (c : Nat) (t : State) : Prop :=
  (t.flagCY = true ↔ 2 ^ 32 ≤ a.toNat + b.toNat + c) ∧
    (t.flagOV = true ↔ ¬(-2 ^ 31 ≤ a.toInt + b.toInt + c ∧ a.toInt + b.toInt + c ≤ 2 ^ 31 - 1)) ∧
    t.flagS = (a + b + BitVec.ofNat 32 c).getLsbD 31 ∧ (t.flagZ = true ↔ a + b + BitVec.ofNat 32 c = 0)

/-- CY, OV, S, Z are those of the subtraction a - b - c; CY is the borrow (R294). -/
def DifferenceFlags (a b : Word) (c : Nat) (t : State) : Prop :=
  (t.flagCY = true ↔ a.toNat < b.toNat + c) ∧
    (t.flagOV = true ↔ ¬(-2 ^ 31 ≤ a.toInt - b.toInt - c ∧ a.toInt - b.toInt - c ≤ 2 ^ 31 - 1)) ∧
    t.flagS = (a - b - BitVec.ofNat 32 c).getLsbD 31 ∧ (t.flagZ = true ↔ a - b - BitVec.ofNat 32 c = 0)

/-- r receives a + b + c, with the flags of the addition. -/
def SumInto (r : Reg) (a b : Word) (c n : Nat) (s t : State) : Prop :=
  t.readReg r = written r (a + b + BitVec.ofNat 32 c) ∧ SumFlags a b c t ∧ Frame [r] arithBits s t ∧ Falls n s t

/-- r receives a - b - c, with the flags of the subtraction. -/
def DifferenceInto (r : Reg) (a b : Word) (c n : Nat) (s t : State) : Prop :=
  t.readReg r = written r (a - b - BitVec.ofNat 32 c) ∧ DifferenceFlags a b c t ∧ Frame [r] arithBits s t ∧ Falls n s t

/-- v is the unbounded e, cut to the range of a signed word (R310). -/
def SaturatedWord (e : Int) (v : Word) : Prop :=
  (2 ^ 31 - 1 < e → v = 0x7FFFFFFF) ∧ (e < -2 ^ 31 → v = 0x80000000) ∧
    (-2 ^ 31 ≤ e → e ≤ 2 ^ 31 - 1 → v.toInt = e)

/-- r receives the unbounded e saturated; CY is carry, OV says that e does not fit, S and Z are those of the saturated
result, SAT is set with OV and kept otherwise (R310, R318). -/
def SaturatesInto (r : Reg) (e : Int) (carry : Prop) (n : Nat) (s t : State) : Prop :=
  ∃ v : Word, SaturatedWord e v ∧ t.readReg r = written r v ∧ (t.flagCY = true ↔ carry) ∧
    (t.flagOV = true ↔ ¬(-2 ^ 31 ≤ e ∧ e ≤ 2 ^ 31 - 1)) ∧ t.flagS = v.getLsbD 31 ∧ (t.flagZ = true ↔ v = 0) ∧
    t.flagSAT = (s.flagSAT || t.flagOV) ∧ Frame [r] (4 :: arithBits) s t ∧ Falls n s t

/-- The registers of rs receive v, with logic_flags(v) (R338); rs is empty for TST. -/
def LogicInto (rs : List Reg) (v : Word) (n : Nat) (s t : State) : Prop :=
  (∀ r ∈ rs, t.readReg r = written r v) ∧ t.flagOV = false ∧ t.flagS = v.getLsbD 31 ∧ (t.flagZ = true ↔ v = 0) ∧
    Frame rs [0, 1, 2] s t ∧ Falls n s t

/-- r receives the word whose bit k is bits k, with the flags of a shift whose last bit out is out (R365). -/
def ShiftInto (r : Reg) (bits : Nat → Bool) (out : Bool) (n : Nat) (s t : State) : Prop :=
  ∃ v : Word, (∀ k, k < 32 → v.getLsbD k = bits k) ∧ t.readReg r = written r v ∧ t.flagCY = out ∧ t.flagOV = false ∧
    t.flagS = v.getLsbD 31 ∧ (t.flagZ = true ↔ v = 0) ∧ Frame [r] arithBits s t ∧ Falls n s t

/-- r receives v, with CY and Z by the conditions cy and z, OV = 0 and S the sign of v (R367). -/
def SwapInto (r : Reg) (v : Word) (cy z : Prop) (s t : State) : Prop :=
  t.readReg r = written r v ∧ (t.flagCY = true ↔ cy) ∧ (t.flagZ = true ↔ z) ∧ t.flagOV = false ∧
    t.flagS = v.getLsbD 31 ∧ Frame [r] arithBits s t ∧ Falls 4 s t

/-- The bit search of v for b, position k counted from 1 being bit at k: r receives the first position, 0 when there is none
(R374). -/
def SearchInto (r : Reg) (b : Bool) (v : Word) (bitAt : Nat → Nat) (s t : State) : Prop :=
  (∀ k, 1 ≤ k → k ≤ 32 → v.getLsbD (bitAt k) = b → (∀ j, 1 ≤ j → j < k → v.getLsbD (bitAt j) ≠ b) →
      t.readReg r = written r (BitVec.ofNat 32 k) ∧ t.flagZ = false ∧ (t.flagCY = true ↔ k = 32)) ∧
    ((∀ j, 1 ≤ j → j ≤ 32 → v.getLsbD (bitAt j) ≠ b) →
      t.readReg r = written r 0 ∧ t.flagZ = true ∧ t.flagCY = false) ∧
    t.flagOV = false ∧ t.flagS = false ∧ Frame [r] arithBits s t ∧ Falls 4 s t

/-- q and m are quotient and remainder of a by b, the quotient rounded toward zero (R397). -/
def QuotRem (a b q m : Int) : Prop := a = q * b + m ∧ m.natAbs < b.natAbs ∧ (m = 0 ∨ (0 < m ↔ 0 < a))

/-- What a division leaves as it was: everything but the listed registers, OV, S, Z, the PC and the counter of free values. -/
def DivideFrame (rs : List Reg) (n : Nat) (s t : State) : Prop :=
  RegsExcept rs s t ∧ PswExcept [0, 1, 2] s t ∧ MemSame s t ∧ t.sys = s.sys ∧ EnvSame s t ∧ Falls n s t

/-- OV, S, Z of a division with the quotient word q (R398). -/
def DivideFlags (ov : Prop) (q : Word) (t : State) : Prop :=
  (t.flagOV = true ↔ ov) ∧ t.flagS = q.getLsbD 31 ∧ (t.flagZ = true ↔ q = 0)

/-- Quotient and remainder words of a signed division of a by b, b not 0, with the flags (R398, R399(2)). -/
def SignedResults (a b : Int) (q m : Word) (t : State) : Prop :=
  (¬(a = -2 ^ 31 ∧ b = -1) → QuotRem a b q.toInt m.toInt ∧ DivideFlags False q t) ∧
    (a = -2 ^ 31 ∧ b = -1 → q = 0x80000000 ∧ m = 0 ∧ DivideFlags True q t)

/-- Quotient and remainder words of an unsigned division of a by b, b not 0, with the flags (R398). -/
def UnsignedResults (a b : Nat) (q m : Word) (t : State) : Prop :=
  a = q.toNat * b + m.toNat ∧ m.toNat < b ∧ DivideFlags False q t

/-- The 64-bit product hi : lo: hi to w, lo to r unless it is the same register (R260). -/
def ProductInto (r w : Reg) (hi lo : Word) (s t : State) : Prop :=
  t.readReg w = written w hi ∧ (r ≠ w → t.readReg r = written r lo) ∧ Frame [r, w] [] s t ∧ Falls 4 s t

/-- The 64-bit sum hi : lo to an even register pair (R270). -/
def PairInto (p : RegPair) (hi lo : Word) (s t : State) : Prop :=
  t.readReg (pairLow p) = written (pairLow p) lo ∧ t.readReg (pairHigh p) = hi ∧
    Frame [pairLow p, pairHigh p] [] s t ∧ Falls 4 s t

/-- The data access is permitted. -/
def Permitted (s : State) (a : Word) (n : Nat) (k : AccessKind) (sp : Bool) : Prop :=
  s.violates { addr := a, size := n, kind := k, spRel := sp } = false

/-- The bytes of plain memory from a on. -/
def memBytes (s : State) (a : Word) (k : Nat) : Byte := s.read8 (a + BitVec.ofNat 32 k)

/-- The byte, sign-extended and zero-extended. -/
def sByte (f : Nat → Byte) : Word := (f 0).signExtend 32
def uByte (f : Nat → Byte) : Word := (f 0).setWidth 32

/-- The halfword of the two bytes, little-endian, sign-extended and zero-extended. -/
def sHalf (f : Nat → Byte) : Word := (f 1 ++ f 0).signExtend 32
def uHalf (f : Nat → Byte) : Word := (f 1 ++ f 0).setWidth 32

/-- The word of the four bytes, little-endian. -/
def wordOf (f : Nat → Byte) : Word := f 3 ++ f 2 ++ f 1 ++ f 0

/-- The little-endian word of plain memory at an address. -/
def wordAt (s : State) (a : Word) : Word := wordOf (memBytes s a)

/-- The n bytes from a on hold the low n bytes of v, little-endian. -/
def Stored (a : Word) (n : Nat) (v : Word) (t : State) : Prop :=
  ∀ k : Nat, k < n → t.read8 (a + BitVec.ofNat 32 k) = byteOf v k

/-- u is s after an access of n bytes at a that stores: at most those bytes and what the platform sees have changed. -/
def OnlyStored (a : Word) (n : Nat) (s u : State) : Prop := MemExcept a n s u ∧ OnlyAsked { s with mem := u.mem } u

/-! ## Exceptions and returns -/

/-- The PSW after acceptance: ID = 1, EP by the kind, NP = 1 at the FE level, NPV, DMP, IMP cleared where they are; the other
bits as they were (R515, R516, R517). The new IMP is in force at once: a lag of it ends (log 19). -/
def PswEntered (fe interrupt clears : Bool) (s t : State) : Prop :=
  t.pswID = true ∧ t.pswEP = !interrupt ∧ (fe = true → t.pswNP = true) ∧
    (clears = true → t.pswNPV = false ∧ t.pswDMP = false ∧ t.pswIMP = false) ∧ t.impInForce = t.pswIMP ∧
    PswExcept ([5, 6] ++ (if fe then [7] else []) ++ (if clears then [16, 17, 18] else [])) s t

/-- An EI-level exception with this code and return PC is entered at the handler (R520, R521). -/
def EntersEi (code ret handler : Word) (interrupt : Bool) (s t : State) : Prop :=
  t.sys = { s.sys with
      eipc := pcmask ret, eipsw := s.psw, eiic := code, ecr := highHalf s.sys.ecr ++ lowHalf code } ∧
    PswEntered false interrupt s.aue s t ∧ t.pc = pcmask handler ∧
    t.events = (if interrupt then .ack code :: s.events else s.events) ∧ MachineSame s t

/-- An FE-level exception with this code and return PC is entered at the handler; y holds the system registers with the
violation's information, if there is one (R522, R523, R550, R551). -/
def EntersFe (code ret handler : Word) (interrupt clears : Bool) (y : SysRegs) (s t : State) : Prop :=
  t.sys = { y with
      fepc := pcmask ret, fepsw := s.psw, feic := code, ecr := lowHalf code ++ lowHalf y.ecr } ∧
    PswEntered true interrupt (s.aue || clears) s t ∧ t.pc = pcmask handler ∧
    t.events = (if interrupt then .ack code :: s.events else s.events) ∧ MachineSame s t

/-- The system registers with the information of a memory protection violation (R550, R551). -/
def violationRecorded (s : State) (addr cause : Word) : SysRegs :=
  { s.sys with vmtid := s.sys.tid, vmadr := addr, vmecr := cause }

/-- psw_restore(v) (R451). -/
def PswRestored (v : Word) (s t : State) : Prop :=
  (∀ k : Nat, k < 8 ∨ (9 ≤ k ∧ k ≤ 11) → t.psw.getLsbD k = v.getLsbD k) ∧
    t.pswIMP = (s.mpe && v.getLsbD 16) ∧ t.pswDMP = (s.mpe && v.getLsbD 17) ∧
    t.pswNPV = (s.mpe && s.aue && v.getLsbD 18) ∧
    (∀ k : Nat, k = 8 ∨ (12 ≤ k ∧ k ≤ 15) ∨ 19 ≤ k → t.psw.getLsbD k = false)

/-- A return to ret with the saved PSW v; the new PSW governs the instruction at the return address (R451, R541). -/
def Returns (ret v : Word) (notify : Bool) (s t : State) : Prop :=
  t.pc = pcmask ret ∧ PswRestored v s t ∧ t.impInForce = t.pswIMP ∧ t.sys = s.sys ∧ RegsExcept [] s t ∧ MemSame s t ∧
    t.events = (if notify then .eoi :: s.events else s.events) ∧ MachineSame s t

/-- The code of the exception as which the platform reports an error of an access: SYSERR or MEP, with its cause (R506,
R508). -/
def errorCode : AccessError → Word
  | .syserr k => 0x230 + BitVec.ofNat 32 k.val
  | .mep k => 0x330 + BitVec.ofNat 32 k.val

/-- An instruction on s ends with the exception of an error e that the platform reports for its access, at its own address: no
register and no byte of memory is written (R120(3), R235(4), log 41). u is s after the platform was asked. -/
def Aborted (e : AccessError) (s u t : State) : Prop :=
  OnlyAsked s u ∧ EntersFe (errorCode e) s.pc (s.sys.ehBase + 0x30) false false s.sys u t ∧ RegsExcept [] s t ∧ MemSame s t

/-! ## Results of a permitted data access: on plain memory, with the platform's answer, with the platform's error -/

/-- A permitted load of n bytes at a ends with the value v of the bytes read in r, len bytes on: from plain memory with nothing
else changed, and wherever the platform answers without error with the platform asked besides. With an error it aborts. -/
def LoadGives (i : Instr) (s : State) (a : Word) (n : Nat) (sp : Bool) (r : Reg) (v : (Nat → Byte) → Word) (len : Nat) : Prop :=
  Permitted s a n .load sp →
    (Plain s a n → ∃ t, exec i s = .next t ∧ SetsReg r (v (memBytes s a)) len s t) ∧
    (s.busError a n = none → ∃ t, exec i s = .next t ∧ OnlyAsked s (s.afterRead a n) ∧
      SetsReg r (v (s.busByte a n)) len (s.afterRead a n) t) ∧
    (∀ e, s.busError a n = some e → ∃ t, exec i s = .next t ∧ Aborted e s (s.afterRead a n) t)

/-- A permitted store of the low n bytes of v at a ends len bytes on: with them in plain memory and nothing else changed, and
wherever the platform answers without error with the platform asked. With an error it aborts. -/
def StoreGives (i : Instr) (s : State) (a : Word) (n : Nat) (sp : Bool) (v : Word) (len : Nat) : Prop :=
  Permitted s a n .store sp →
    (Plain s a n → ∃ t, exec i s = .next t ∧ Falls len s t ∧ Stored a n v t ∧ StoreFrame [] [] a n s t) ∧
    (s.busError a n = none → ∃ t, exec i s = .next t ∧ Falls len s t ∧ OnlyStored a n s (s.busWrite a n v) ∧
      Frame [] [] (s.busWrite a n v) t) ∧
    (∀ e, s.busError a n = some e → ∃ t, exec i s = .next t ∧ Aborted e s (s.busWrite a n v) t)

/-- A permitted bit instruction on bit k of the byte at a: Z shows whether the bit was 0, the byte b written back has in bit k
what new makes of it and the other seven bits as read (R434 to R436). With an error of the read or of the write it aborts. -/
def BitGives (i : Instr) (s : State) (a : Word) (k : Nat) (sp : Bool) (new : Bool → Bool) : Prop :=
  Permitted s a 1 .modify sp → ∃ (u : State) (b : Byte),
    (∀ j : Nat, j < 8 →
      b.getLsbD j = if j = k then new ((s.busByte a 1 0).getLsbD k) else (s.busByte a 1 0).getLsbD j) ∧
    u = (s.afterRead a 1).busWrite a 1 (b.setWidth 32) ∧
    (Plain s a 1 → ∃ t, exec i s = .next t ∧ Falls 4 s t ∧ s.busByte a 1 0 = s.read8 a ∧
      t.flagZ = !(s.read8 a).getLsbD k ∧ t.read8 a = b ∧ StoreFrame [] [0] a 1 s t) ∧
    (s.busError a 1 = none → (s.afterRead a 1).busError a 1 = none → ∃ t, exec i s = .next t ∧ Falls 4 s t ∧
      t.flagZ = !(s.busByte a 1 0).getLsbD k ∧ OnlyStored a 1 s u ∧ Frame [] [0] u t) ∧
    (∀ e, s.busError a 1 = some e → ∃ t, exec i s = .next t ∧ Aborted e s (s.afterRead a 1) t) ∧
    (∀ e, s.busError a 1 = none → (s.afterRead a 1).busError a 1 = some e →
      ∃ t, exec i s = .next t ∧ Aborted e s u t)

/-- A permitted TST1 of bit k of the byte at a (R433). With an error it aborts. -/
def TestGives (i : Instr) (s : State) (a : Word) (k : Nat) (sp : Bool) : Prop :=
  Permitted s a 1 .bitTest sp →
    (Plain s a 1 → ∃ t, exec i s = .next t ∧ Falls 4 s t ∧ t.flagZ = !(s.read8 a).getLsbD k ∧ Frame [] [0] s t) ∧
    (s.busError a 1 = none → ∃ t, exec i s = .next t ∧ Falls 4 s t ∧ t.flagZ = !(s.busByte a 1 0).getLsbD k ∧
      OnlyAsked s (s.afterRead a 1) ∧ Frame [] [0] (s.afterRead a 1) t) ∧
    (∀ e, s.busError a 1 = some e → ∃ t, exec i s = .next t ∧ Aborted e s (s.afterRead a 1) t)

/-! ## System registers -/

/-- Every system register outside the list reads as before. -/
def SysExcept (rs : List SysReg) (s t : State) : Prop := ∀ q : SysReg, q ∉ rs → t.readSys q = s.readSys q

/-- What an LDSR leaves as it was besides the system registers. -/
def LdsrFrame (s t : State) : Prop :=
  RegsExcept [] s t ∧ MemSame s t ∧ MachineSame s t ∧ t.events = s.events ∧ Falls 4 s t

/-- What a system register other than PSW, MPM, MPC, SW_CTL reads as after LDSR wrote v over old: the fields of
10_state.md; the bits that must be written as 0 by logs 12, 13, 15, 17, 18. -/
def ldsrValue (q : SysReg) (v old : Word) : Word :=
  match q with
  | .ecr | .dir | .ehCfg | .ehReset | .ehBase | .psw | .mpm | .mpc | .swCtl => old
  | .eipc | .fepc | .ctpc => sext26 v
  | .ctbp | .vsadr => pcmask v
  | .eipsw | .fepsw | .ctpsw => v &&& 0x00070EFF
  | .sccfg | .vsecr => v &&& 0xFF
  | .swCfg => v &&& 1
  | .swBase => v &&& 0xFFFFE000
  | .paL _ => sext26 v &&& 0xFFFFFFF3
  | .paU _ => v &&& 0xFFFFFFF7
  | .vmecr => v &&& 0x7E
  | .scbp | .eiic | .feic | .dbic | .dbpc | .dbpsw | .dbg _ | .eiwr | .fewr | .dbwr | .bsel | .tid | .vmtid | .vmadr
  | .vstid => v

/-! ## The stack frame -/

/-- The address of store j (from 0) of a PREPARE (R465). -/
def pushAddr (s : State) (j : Nat) : Word := wordAlign (s.readReg 3 - BitVec.ofNat 32 (4 * (j + 1)))

/-- The address of load j (from 0) of a DISPOSE (R457). -/
def popAddr (s : State) (imm5 : BitVec 5) (j : Nat) : Word :=
  wordAlign (s.readReg 3 + BitVec.ofNat 32 (4 * imm5.toNat + 4 * j))

/-- The state after the first n stores of a PREPARE. -/
def pushesDone (s : State) (list12 : RegList) (n : Nat) : State :=
  ((ascending list12).take n).zipIdx.foldl (fun u p => u.busWrite (pushAddr s p.2) 4 (s.readReg p.1)) s

/-- The state after the platform was asked for the first n loads of a DISPOSE. -/
def popsDone (s : State) (imm5 : BitVec 5) (n : Nat) : State :=
  (List.range n).foldl (fun u j => u.afterRead (popAddr s imm5 j) 4) s

/-- Store j of a PREPARE has no error: it goes to plain memory, or the platform reports none for it. -/
def PushAccepted (s : State) (list12 : RegList) (j : Nat) : Prop :=
  Plain s (pushAddr s j) 4 ∨ (pushesDone s list12 j).busError (pushAddr s j) 4 = none

/-- Load j of a DISPOSE has no error. -/
def PopAccepted (s : State) (imm5 : BitVec 5) (j : Nat) : Prop :=
  Plain s (popAddr s imm5 j) 4 ∨ (popsDone s imm5 j).busError (popAddr s imm5 j) 4 = none

/-- The first n stores of a PREPARE are done: those to plain memory stand there, and no other byte changed. -/
def Pushed (list12 : RegList) (n : Nat) (s t : State) : Prop :=
  (∀ (j : Nat) (r : Reg), j < n → (ascending list12)[j]? = some r → Plain s (pushAddr s j) 4 →
      Stored (pushAddr s j) 4 (s.readReg r) t) ∧
    (∀ b : Word, (∀ j k : Nat, j < n → k < 4 → b ≠ pushAddr s j + BitVec.ofNat 32 k) → t.read8 b = s.read8 b) ∧
    MemSame (pushesDone s list12 n) t ∧ OnlyAsked { s with mem := (pushesDone s list12 n).mem } (pushesDone s list12 n)

/-- The first n loads of a DISPOSE are done: load j gives the word that stands in plain memory, or what the platform answers
after the loads before it. -/
def Popped (imm5 : BitVec 5) (list12 : RegList) (n : Nat) (s t : State) : Prop :=
  (∀ (j : Nat) (r : Reg), j < n → (descending list12)[j]? = some r →
    t.readReg r = wordOf ((popsDone s imm5 j).busByte (popAddr s imm5 j) 4) ∧
    (Plain s (popAddr s imm5 j) 4 → t.readReg r = wordAt s (popAddr s imm5 j))) ∧ OnlyAsked s (popsDone s imm5 n)

/-- PREPARE completes: the stores done, sp below the frame, ep as ep says, len bytes on. -/
def PrepareGives (i : Instr) (s : State) (list12 : RegList) (imm5 : BitVec 5) (ep : Option Word) (len : Nat) : Prop :=
  (∀ j : Nat, j < (ascending list12).length → Permitted s (pushAddr s j) 4 .push true ∧ PushAccepted s list12 j) →
    ∃ t, exec i s = .next t ∧ Pushed list12 (ascending list12).length s t ∧
      t.readReg 3 = s.readReg 3 - BitVec.ofNat 32 (4 * (ascending list12).length) - BitVec.ofNat 32 (4 * imm5.toNat) ∧
      (∀ v, ep = some v → t.readReg 30 = v) ∧ RegsExcept (if ep = none then [3] else [3, 30]) s t ∧
      PswExcept [] s t ∧ RestSame (pushesDone s list12 (ascending list12).length) t ∧
      ((∀ j : Nat, j < (ascending list12).length → Plain s (pushAddr s j) 4) → RestSame s t) ∧ Falls len s t

/-- DISPOSE but for where it goes on: the loads done, sp above the frame, nothing else changed. -/
def DisposeGives (imm5 : BitVec 5) (list12 : RegList) (s t : State) : Prop :=
  Popped imm5 list12 (descending list12).length s t ∧
    t.readReg 3 = s.readReg 3 + BitVec.ofNat 32 (4 * imm5.toNat) + BitVec.ofNat 32 (4 * (descending list12).length) ∧
    Frame (3 :: descending list12) [] (popsDone s imm5 (descending list12).length) t ∧
    ((∀ j : Nat, j < (descending list12).length → Plain s (popAddr s imm5 j) 4) → Frame (3 :: descending list12) [] s t)

/-! ## Memory protection -/

/-- The ends of area n (R141). -/
def areaLow (s : State) (n : Fin 4) : Nat := (sext26 (s.sys.paL[n] &&& 0xFFFFFFF0)).toNat
def areaHigh (s : State) (n : Fin 4) : Nat := (s.sys.paU[n] ||| 0xF).toNat

/-- Area n is in force and holds the addresses a to b (R141, D11). -/
def AreaCovers (s : State) (n : Fin 4) (a b : Nat) : Prop :=
  s.sys.paL[n].getLsbD 0 = true ∧ areaLow s n ≤ areaHigh s n ∧ areaLow s n ≤ a ∧ b ≤ areaHigh s n

/-- Area n has the permission bit (R68, R69). -/
def AreaGrants (s : State) (n : Fin 4) (k : Perm) : Prop :=
  match k with
  | .x => s.sys.paU[n].getLsbD 0 = true
  | .r => s.sys.paU[n].getLsbD 1 = true
  | .w => s.sys.paU[n].getLsbD 2 = true
  | .s => s.sys.paL[n].getLsbD 1 = true

/-- The kinds of permission that an access needs (R144(3), R147). -/
def Needs (acc : Access) (k : Perm) : Prop :=
  match k with
  | .x => False
  | .r => acc.kind ≠ .store ∧ acc.kind ≠ .push
  | .w => acc.kind = .store ∨ acc.kind = .push ∨ acc.kind = .modify
  | .s => acc.spRel = true

/-! ## The form of the machine that every step keeps -/

/-- The bits that a system register does not have are as its rule fixes them (10_state.md). -/
structure SysForm (y : SysRegs) : Prop where
  eipc : sext26 y.eipc = y.eipc
  eipsw : y.eipsw &&& 0x00070EFF = y.eipsw
  fepc : sext26 y.fepc = y.fepc
  fepsw : y.fepsw &&& 0x00070EFF = y.fepsw
  sccfg : y.sccfg &&& 0xFF = y.sccfg
  ctpc : sext26 y.ctpc = y.ctpc
  ctpsw : y.ctpsw &&& 0x00070EFF = y.ctpsw
  ctbp : pcmask y.ctbp = y.ctbp
  swCtl : y.swCtl = 0
  swCfg : y.swCfg &&& 1 = y.swCfg
  swBase : y.swBase &&& 0xFFFFE000 = y.swBase
  ehCfg : y.ehCfg &&& 1 = y.ehCfg
  ehReset : baseMask y.ehReset = y.ehReset
  ehBase : baseMask y.ehBase = y.ehBase
  mpm : y.mpm &&& 3 = y.mpm
  mpc : y.mpc = 0
  paL : ∀ n : Fin 4, sext26 y.paL[n] &&& 0xFFFFFFF3 = y.paL[n]
  paU : ∀ n : Fin 4, y.paU[n] &&& 0xFFFFFFF7 = y.paU[n]
  vmecr : y.vmecr &&& 0x7E = y.vmecr
  vsecr : y.vsecr &&& 0xFF = y.vsecr
  vsadr : pcmask y.vsadr = y.vsadr

/-- The invariant of the machine: r0 holds 0 (R21), the PC lies in the 64 MB space and is even (R24), the PSW has only the bits
that MPM allows (R36, R42), the system registers have their form, memory its canonical form, and a lagging IMP of 1 needs
MPE = 1 (R42(a)). -/
structure Inv (s : State) : Prop where
  r0 : s.gr[0] = 0
  pc : pcmask s.pc = s.pc
  psw : legalPsw s.mpm s.psw = s.psw
  sys : SysForm s.sys
  mem : Memory.wf s.mem = true
  lag : s.impLag ≠ 0 → s.impOld = true → s.mpe = true

/-! ## Which steps run an instruction -/

/-- No request that the platform presents can be accepted now: what is requested is held by NP or ID (R512, D2). -/
def NothingAccepted (s : State) : Prop :=
  s.sample.reset = false ∧ s.sample.fenmi = false ∧ s.sample.syserr = none ∧
    (s.sample.feint = true → s.pswNP = true) ∧ (s.sample.int ≠ none → s.pswNP = true ∨ s.pswID = true)

/-- The next step runs the code at the PC: not halted, nothing accepted, no execution violation, no fetch error reported, and
the code is no coprocessor opcode of the product (R513). -/
def Runs (s : State) : Prop :=
  s.halted = false ∧ NothingAccepted s ∧ s.fetchViolates = false ∧ s.fetchError s.sample.mep = none ∧
    coprocCode s.product.coproc s.code = none

/-- The state after the fetch: the sample is used up, and the platform has seen the fetches that it answers. -/
def fetchSeen (s : State) : State := s.popSample.fetchDone

/-- The state on which a running instruction acts: its halfwords are fetched, and a change of PSW.IMP lags one instruction
less. -/
def fetched (s : State) : State := (fetchSeen s).tickImp

/-- Every halfword of the code at the PC is plain memory. -/
def PlainCode (s : State) : Prop := ∀ k : Nat, 2 * k < s.fetchLength → Plain s (s.fetchAddr k) 2

/-- The state from which a request is accepted: the sample is used up, and HALT mode has ended (R513, step 2). -/
def awake (s : State) : State := { s.popSample with halted := false }

/-! ## The one data access of an instruction -/

/-- The data access that an instruction makes first and alone: none for an instruction without data access, for SYSCALL
(exempt, R149), and for PREPARE and DISPOSE, which make several (R126). -/
def dataAccess (i : Instr) (s : State) : Option Access :=
  match i with
  | .ldB d R _ | .ldBu d R _ => some (loadAccess (s.addr16 d R) 1 (isSp R))
  | .ldH d R _ | .ldHu d R _ => some (loadAccess (s.addr15 d R) 2 (isSp R))
  | .ldW d R _ => some (loadAccess (s.addr15 d R) 4 (isSp R))
  | .ldBDisp23 d R _ | .ldBuDisp23 d R _ => some (loadAccess (s.addr23 d R) 1 (isSp R))
  | .ldHDisp23 d R _ | .ldHuDisp23 d R _ => some (loadAccess (s.addr22 d R) 2 (isSp R))
  | .ldWDisp23 d R _ => some (loadAccess (s.addr22 d R) 4 (isSp R))
  | .stB _ d R => some (storeAccess (s.addr16 d R) 1 (isSp R))
  | .stH _ d R => some (storeAccess (s.addr15 d R) 2 (isSp R))
  | .stW _ d R => some (storeAccess (s.addr15 d R) 4 (isSp R))
  | .stBDisp23 _ d R => some (storeAccess (s.addr23 d R) 1 (isSp R))
  | .stHDisp23 _ d R => some (storeAccess (s.addr22 d R) 2 (isSp R))
  | .stWDisp23 _ d R => some (storeAccess (s.addr22 d R) 4 (isSp R))
  | .sldB d _ => some (loadAccess (s.epAddr7 d) 1 false)
  | .sldBu d _ => some (loadAccess (s.epAddr4 d) 1 false)
  | .sldH d _ => some (loadAccess (s.epAddr8 d) 2 false)
  | .sldHu d _ => some (loadAccess (s.epAddr5 d) 2 false)
  | .sldW d _ => some (loadAccess (s.epAddr8w d) 4 false)
  | .sstB _ d => some (storeAccess (s.epAddr7 d) 1 false)
  | .sstH _ d => some (storeAccess (s.epAddr8 d) 2 false)
  | .sstW _ d => some (storeAccess (s.epAddr8w d) 4 false)
  | .set1 _ d R | .not1 _ d R | .clr1 _ d R => some (modifyAccess (s.addr16 d R) 1 (isSp R))
  | .tst1 _ d R => some (testAccess (s.addr16 d R) (isSp R))
  | .set1Reg _ R | .not1Reg _ R | .clr1Reg _ R => some (modifyAccess (s.readReg R) 1 (isSp R))
  | .tst1Reg _ R => some (testAccess (s.readReg R) (isSp R))
  | .caxi R _ _ => some (modifyAccess (s.caxiAddr R) 4 (isSp R))
  | .callt i => some (tableAccess (s.calltEntry i))
  | .switch R => some (tableAccess (s.switchEntry R))
  | _ => none

/-- The instructions that restore the PSW from a saved copy (R451). -/
def isReturn (i : Instr) : Bool :=
  match i with
  | .eiret | .feret | .ctret | .reti => true
  | _ => false

/-- The saturated operation instructions (43_saturated.md). -/
def isSaturated (i : Instr) : Bool :=
  match i with
  | .satadd _ _ | .sataddImm5 _ _ | .satadd3 _ _ _ | .satsub _ _ | .satsub3 _ _ _ | .satsubi _ _ _ | .satsubr _ _ => true
  | _ => false

/-- The instructions whose whole operation is an exception (R450(a)). -/
def isSoftwareException (i : Instr) : Bool :=
  match i with
  | .fetrap _ | .trap _ | .syscall _ | .rie | .rieImm _ _ => true
  | _ => false

end Sys2Proof.Safety
end

