-- ==== Sys2Proof/Certificates/Slice0/Obligations.lean ====
section
/-! DEFINITION. The statements for the provers (OBLIGATIONS.json). Each docstring says what the statement formalises; a clause
that rests on a choice of the model or of the spec names its log entry (notes/assumptions). -/

section

open Sys2Proof Sys2Proof.Machine Sys2Proof.Safety

/-- Words written out from the encodings decode to the instructions they stand for. The table words of ADD r1, r2 (11C1H), LD.W
4[r3], r31 (FF23H 0005H), LD.W with disp23 (0780H 67C9H 7FFFH), MUL r1, r2, r3, JARL 0x100, r31, LDSR r1, 5 and PREPARE
{r29, r31}, 4, 0x12345678 decode to those instructions, and 0001H, a reserved code, to none. A displacement is a byte
displacement, so that 4[r3] has the field 2 and 0x100 the field 80H, and imm5 of PREPARE is the field value. Which field of
LDSR holds the general register is general knowledge in the spec (log 20). From 30_encoding.md section 9, 30_encoding.md
section 8, 95_test_vectors.md section 2. -/
def Obligations.DecodeWrittenWords : Prop :=
  decodeTableWord 16 0x11C1 = some (.add 1 2) ∧
    decodeTableWord 32 0x0005FF23 = some (.ldW 2 3 31) ∧
    decodeTableWord 48 0x7FFF67C90780 = some (.ldWDisp23 0x1FFFFE 0 12) ∧
    decodeTableWord 32 0x1A2017E1 = some (.mul 1 2 3) ∧
    decodeTableWord 32 0x0100FF80 = some (.jarlDisp22 0x80 31) ∧
    decodeTableWord 32 0x00202FE1 = some (.ldsr 1 5) ∧
    decodeTableWord 64 0x12345678007B0788 = some (.prepareImm32 0b110 4 0x12345678) ∧
    decodeTableWord 16 0x0001 = none

/-- Decoding the encoding of any well-formed instruction gives it back. For every well-formed instruction i of all 137
encodings, with every operand at every value the encoding admits, and whatever bytes follow, the decoder reads i from the
bytes of its encoding and leaves exactly the bytes that follow. From 30_encoding.md section 9, 30_encoding.md section 6. -/
def Obligations.DecodeEncodeRoundTrip : Prop :=
  ∀ (i : Instr) (rest : List Byte), i.WellFormed → decode (encodeBytes i ++ rest) = .instr i rest

/-- What the decoder accepts is the encoding of the well-formed instruction it answers. Whenever the decoder reads an
instruction i from bytes bs and leaves rest, i is well-formed and bs is the encoding of i followed by rest: no bit of an
accepted code is ignored, and no code has two readings. From 30_encoding.md section 9, 30_encoding.md section 5. -/
def Obligations.DecodedBytesAreEncoding : Prop :=
  ∀ (bs : List Byte) (i : Instr) (rest : List Byte),
    decode bs = .instr i rest → i.WellFormed ∧ bs = encodeBytes i ++ rest

/-- A step executes the instruction that the bytes at the PC decode to. When the machine runs (not in HALT mode, no request
accepted, no execution violation, no fetch error, no coprocessor opcode of the product) and the bytes at the PC decode to i,
or a reserved code there acts as i in the product (log 22), the step is exec of i on the state after the fetch: the sample
of platform inputs is used up (log 5), the lag of PSW.IMP is one instruction shorter (log 19), and the platform has seen the
fetch of the halfwords that it answers and answered them (log 43); nothing else differs, and the platform sees nothing where
the code is plain memory. From 60_exceptions.md section 3, 20_memory.md section 5, 30_encoding.md section 7,
70_reset_and_hazards.md section 3. -/
def Obligations.StepRunsDecodedInstruction : Prop :=
  ∀ s : State, Runs s →
    (∀ (i : Instr) (rest : List Byte), decode s.fetchBytes = .instr i rest → step s = exec i (fetched s)) ∧
    (∀ (i : Instr) (why : DecodeReject), decode s.fetchBytes = .rejected why →
      reservedAction s.product.reserved s.code = some i → step s = exec i (fetched s)) ∧
    (∀ ks : List Nat, ks = (List.range (s.fetchLength / 2)).filter (fun k => s.anyIo (s.fetchAddr k) 2) →
      fetched s = { s with
        inputs := s.inputs.tail, impLag := s.impLag - 1, answers := s.answers.drop ks.length
        events := (ks.map fun k => .busFetch (s.fetchAddr k)).reverse ++ s.events }) ∧
    (PlainCode s → fetched s = { s with inputs := s.inputs.tail, impLag := s.impLag - 1 })

/-- MIP, a fetch error, UCPOP and RIE are entered before the instruction executes, in that order. With no interrupt accepted: an
execution violation enters MIP (430H) with VMTID, VMADR = pc, VMECR = 2 recorded; else a reported fetch error enters its
exception, MEP k (330H + k) or SYSERR k (230H + k); else a coprocessor opcode of the product, told by the whole code, enters
UCPOP (530H + code); else a reserved opcode that acts as no instruction in the product enters RIE (130H). Return PC is pc,
the handler EH_BASE + 30H, registers and memory are unchanged. The fetch error is the MEP that the sample names; without one
that of the first halfword for which the platform reports one, and the platform has then seen the fetches up to it; where
the code is plain memory there is no other. That an unlisted opcode raises RIE by default and which opcodes raise UCPOP are
the decisions D16 and D17 of the spec (logs 22, 23); that the platform tells as which exception it reports the error of a
fetch is read from R122 and R508 (logs 41, 43); that the entry ends a lag of PSW.IMP is the choice of the model (log 19).
From 60_exceptions.md section 3, 60_exceptions.md section 5, 60_exceptions.md section 8, 30_encoding.md section 7,
20_memory.md section 5, 70_reset_and_hazards.md section 3. -/
def Obligations.FetchStageExceptions : Prop :=
  ∀ s : State, s.halted = false → NothingAccepted s →
    (s.fetchViolates = true → ∃ t, step s = .next t ∧
      EntersFe 0x430 s.pc (s.sys.ehBase + 0x30) false true (violationRecorded s s.pc 2) (fetchSeen s) t ∧
      RegsExcept [] s t ∧ MemSame s t) ∧
    (∀ e : AccessError, s.fetchViolates = false → s.fetchError s.sample.mep = some e → ∃ t, step s = .next t ∧
      EntersFe (errorCode e) s.pc (s.sys.ehBase + 0x30) false false s.sys (fetchSeen s) t ∧
      RegsExcept [] s t ∧ MemSame s t) ∧
    (∀ k : Fin 4, s.sample.mep = some k → s.fetchError s.sample.mep = some (.mep k)) ∧
    (∀ (k : Nat) (e : AccessError) (ks : List Nat), s.fetchViolates = false → s.sample.mep = none → 2 * k < s.fetchLength →
      s.halfError k = some e → (∀ j : Nat, j < k → s.halfError j = none) →
      ks = (List.range (k + 1)).filter (fun j => s.anyIo (s.fetchAddr j) 2) →
      s.fetchError s.sample.mep = some e ∧ fetchSeen s = { s with
        inputs := s.inputs.tail, answers := s.answers.drop ks.length
        events := (ks.map fun j => .busFetch (s.fetchAddr j)).reverse ++ s.events }) ∧
    (PlainCode s → s.fetchError s.sample.mep = s.sample.mep.map .mep ∧ fetchSeen s = s.popSample) ∧
    (∀ k : Fin 8, s.fetchViolates = false → s.fetchError s.sample.mep = none →
      coprocCode s.product.coproc s.code = some k → ∃ t, step s = .next t ∧
      EntersFe (0x530 + BitVec.ofNat 32 k.val) s.pc (s.sys.ehBase + 0x30) false false s.sys (fetched s) t ∧
      RegsExcept [] s t ∧ MemSame s t) ∧
    (∀ why : DecodeReject, s.fetchViolates = false → s.fetchError s.sample.mep = none →
      coprocCode s.product.coproc s.code = none → decode s.fetchBytes = .rejected why →
      reservedAction s.product.reserved s.code = none → ∃ t, step s = .next t ∧
      EntersFe 0x130 s.pc (s.sys.ehBase + 0x30) false false s.sys (fetched s) t ∧
      RegsExcept [] s t ∧ MemSame s t)

/-- Requests are accepted before the instruction, in the order FENMI, SYSERR, FEINT, INT. With no reset: FENMI is entered at
+20H (code 20H) whatever NP and ID are; without it SYSERR k at +30H (230H + k); without both FEINT at +10H (code 10H) when
NP = 0; without these INTn (80H + 10H n) when NP = 0 and ID = 0, at +80H + 10H n, or at +80H when EH_CFG.RINT = 1. The
return PC is pc, interrupts clear EP and are acknowledged, HALT mode has ended (decision D19 of the spec, log 27), registers
and memory are unchanged. That the sample is used up is log 5; that RINT is bit 0 of EH_CFG is general knowledge in the spec
(log 21); that acceptance ends a lag of PSW.IMP is the choice of the model (log 19). From 60_exceptions.md section 3,
60_exceptions.md section 5, 60_exceptions.md section 6, 92_eei_decisions.md section 1, 10_state.md section 5, 10_state.md
section 7, 93_implementation_defined.md List G, 70_reset_and_hazards.md section 3. -/
def Obligations.InterruptAcceptance : Prop :=
  ∀ s : State, s.sample.reset = false →
    (s.sample.fenmi = true → ∃ t, step s = .next t ∧
      EntersFe 0x20 s.pc (s.sys.ehBase + 0x20) true false s.sys (awake s) t ∧ RegsExcept [] s t ∧ MemSame s t) ∧
    (∀ k : Fin 4, s.sample.fenmi = false → s.sample.syserr = some k → ∃ t, step s = .next t ∧
      EntersFe (0x230 + BitVec.ofNat 32 k.val) s.pc (s.sys.ehBase + 0x30) false false s.sys (awake s) t ∧
      RegsExcept [] s t ∧ MemSame s t) ∧
    (s.sample.fenmi = false → s.sample.syserr = none → s.sample.feint = true → s.pswNP = false → ∃ t, step s = .next t ∧
      EntersFe 0x10 s.pc (s.sys.ehBase + 0x10) true false s.sys (awake s) t ∧ RegsExcept [] s t ∧ MemSame s t) ∧
    (∀ n : Fin 256, s.sample.fenmi = false → s.sample.syserr = none → s.sample.feint = false → s.sample.int = some n →
      s.pswNP = false → s.pswID = false → ∃ t, step s = .next t ∧
      EntersEi (0x80 + BitVec.ofNat 32 (16 * n.val)) s.pc
        (s.sys.ehBase + 0x80 + (if s.sys.ehCfg.getLsbD 0 then 0 else BitVec.ofNat 32 (16 * n.val))) true (awake s) t ∧
      RegsExcept [] s t ∧ MemSame s t)

/-- In HALT mode a step without a request changes nothing, and any request ends the mode. In HALT mode with no reset: when none
of FENMI, SYSERR, FEINT, INT is requested the step only uses up the sample; when one is, held or not, the step is that of
the same state out of HALT mode. That these requests end the mode is decision D19 of the spec (log 27). From 49_special.md
section 7, 60_exceptions.md section 3, 92_eei_decisions.md section 1. -/
def Obligations.HaltModeWaits : Prop :=
  ∀ s : State, s.halted = true → s.sample.reset = false →
    (s.sample.fenmi = false → s.sample.syserr = none → s.sample.feint = false → s.sample.int = none →
      step s = .next { s with inputs := s.inputs.tail }) ∧
    (s.sample.fenmi = true ∨ s.sample.syserr ≠ none ∨ s.sample.feint = true ∨ s.sample.int ≠ none →
      step s = step { s with halted := false })

/-- The reset input gives every register its value after reset and saves nothing. Whatever else is requested and whatever the
state is, a step with the reset input active ends with PSW = 20H, the PC and EH_RESET at RESET_ADDRESS, EIPSW, FEPSW, CTPSW
= 20H, ECR, EIIC, FEIC, DBIC, BSEL, MPM, MPC, VMECR, VSECR, PAnL, PAnU = 0, EH_BASE and EH_CFG at their parameters, r0 = 0,
HALT mode ended, no event sent and no byte of memory written. Of the parameters only the bits that the registers have count
(log 4). From 70_reset_and_hazards.md section 1, 10_state.md section 9, 60_exceptions.md section 5. -/
def Obligations.ResetInputResets : Prop :=
  ∀ s : State, s.sample.reset = true → ∃ t, step s = .next t ∧ t.psw = 0x20 ∧
    t.pc = baseMask s.product.resetAddress ∧ t.sys.ehReset = baseMask s.product.resetAddress ∧
    t.sys.ehBase = baseMask s.product.ehBaseReset ∧ t.sys.ehCfg = s.product.ehCfgReset &&& 1 ∧
    t.sys.eipsw = 0x20 ∧ t.sys.fepsw = 0x20 ∧ t.sys.ctpsw = 0x20 ∧ t.sys.ecr = 0 ∧ t.sys.eiic = 0 ∧ t.sys.feic = 0 ∧
    t.sys.dbic = 0 ∧ t.sys.bsel = 0 ∧ t.sys.mpm = 0 ∧ t.sys.mpc = 0 ∧ t.sys.vmecr = 0 ∧ t.sys.vsecr = 0 ∧
    (∀ n : Fin 4, t.sys.paL[n] = 0 ∧ t.sys.paU[n] = 0) ∧ t.gr[0] = 0 ∧ t.halted = false ∧ t.impInForce = false ∧
    t.inputs = s.inputs.tail ∧ t.answers = s.answers ∧ t.events = s.events ∧ t.product = s.product ∧ MemSame s t

/-- Every step of every state ends in a next state. No state and no input of the platform makes a step end in a fault or a
refusal: every exceptional case of the V850E2S is an exception entry, which is a next state, and where the spec leaves open
whether to refuse, the model takes the total alternative that the spec offers (U2, U3, U6 to U12: logs 10 to 18, 38). From
60_exceptions.md section 3, 60_exceptions.md section 11, 93_implementation_defined.md List U. -/
def Obligations.StepAlwaysAnswersNext : Prop :=
  ∀ s : State, ∃ t, step s = .next t

/-- The state after reset holds the values that the spec gives. State.reset has PSW = 20H, the PC at the default RESET_ADDRESS
0, r0 = 0, EIPSW, FEPSW, CTPSW = 20H, ECR, EIIC, FEIC, DBIC, BSEL, MPM, MPC, VMECR, VSECR and the area registers 0, and is
not in HALT mode. The reset address and EH_BASE are the default parameters of the spec (log 4); nothing is said of the
registers whose value after reset is undefined (logs 1, 2). From 10_state.md section 9, 70_reset_and_hazards.md section 1,
92_eei_decisions.md section 2. -/
def Obligations.ResetState : Prop :=
  State.reset.psw = 0x20 ∧ State.reset.pc = 0 ∧ State.reset.gr[0] = 0 ∧ State.reset.sys.eipsw = 0x20 ∧
    State.reset.sys.fepsw = 0x20 ∧ State.reset.sys.ctpsw = 0x20 ∧ State.reset.sys.ecr = 0 ∧ State.reset.sys.eiic = 0 ∧
    State.reset.sys.feic = 0 ∧ State.reset.sys.dbic = 0 ∧ State.reset.sys.bsel = 0 ∧ State.reset.sys.mpm = 0 ∧
    State.reset.sys.mpc = 0 ∧ State.reset.sys.vmecr = 0 ∧ State.reset.sys.vsecr = 0 ∧
    State.reset.sys.paL.toList = [0, 0, 0, 0] ∧ State.reset.sys.paU.toList = [0, 0, 0, 0] ∧ State.reset.halted = false

/-- The state after reset meets the invariant. State.reset meets the invariant that every step keeps: r0 = 0, the PC even and in
the 64 MB space, only legal PSW bits, every system register in its form, memory in canonical form. From 10_state.md section
9, 10_state.md section 4, 20_memory.md section 1. -/
def Obligations.ResetMeetsInvariant : Prop :=
  Inv State.reset

/-- Every step keeps the form of the registers and of memory. From every state with r0 = 0, an even PC inside the 64 MB space,
PSW bits as MPM allows them, system registers with the bits they have and memory in canonical form, one step, whatever it
does (instruction, exception, interrupt, reset, HALT), leads to a state with the same properties. That bits which software
must write as 0 are held as 0 is the model's choice (logs 12, 13, 14, 16, 17, 18); so is the canonical form of memory. From
10_state.md section 1, 10_state.md section 2, 10_state.md section 4, 10_state.md section 5, 10_state.md section 7,
20_memory.md section 1. -/
def Obligations.StepKeepsInvariant : Prop :=
  ∀ s t : State, Inv s → step s = .next t → Inv t

/-- r0 reads as 0, discards writes, and no step changes it. Reading r0 gives 0 in every state; writing r0 leaves the whole state
as it was; and from a state whose r0 holds 0 every step leads to one whose r0 holds 0. The sentence of R21 on this is an
inference of the spec itself, marked [derived]. From 10_state.md section 1. -/
def Obligations.RegisterZeroStaysZero : Prop :=
  (∀ s : State, s.readReg 0 = 0) ∧ (∀ (s : State) (v : Word), s.writeReg 0 v = s) ∧
    ∀ s t : State, s.gr[0] = 0 → step s = .next t → t.gr[0] = 0

/-- Every value of the PC is even and lies in the 64 MB instruction space. pcmask(v) keeps bits 25-1 of v, clears bit 0 and
copies bit 25 to bits 31-26; and from a state whose PC is a masked value every step leads to a PC that is even and lies in
00000000H-01FFFFFEH or FE000000H-FFFFFFFEH. Formalises R24. -/
def Obligations.PcStaysInInstructionSpace : Prop :=
  (∀ v : Word, (pcmask v).getLsbD 0 = false ∧
      ∀ k : Nat, k < 32 → 0 < k → (pcmask v).getLsbD k = v.getLsbD (if k ≤ 25 then k else 25)) ∧
    ∀ s t : State, pcmask s.pc = s.pc → step s = .next t →
      t.pc.toNat % 2 = 0 ∧ (t.pc.toNat ≤ 0x01FFFFFE ∨ (0xFE000000 ≤ t.pc.toNat ∧ t.pc.toNat ≤ 0xFFFFFFFE))

/-- Memory is little-endian, a read gives back what was written, and the platform sees each access to its addresses once. Plain
memory: byte k of a word or halfword at a is the byte at a + k, byte 0 the least significant; writing puts byte k of the
value at a + k and leaves every other byte; so reading gives it back, whatever the alignment (R120, R121; the plain byte
array is log 3). Addresses wrap modulo 2^32 (decision D5, log 26). Where the platform answers (D4, logs 3, 43): an aligned
access asks it once, with address, size and the bytes written, and a read gives the bytes of its answer; a misaligned access
is that of its bytes one by one in ascending order (D6, log 26). Asking uses up one answer and changes no register and no
memory. The error of an aligned access is that of its answer, that of a misaligned one the first of its bytes; that the
access then ends with this byte, that a write changes no byte of plain memory (R235(4)), and that a platform with no answer
left reports no error, is how the model reads the spec, which leaves the errors to the platform (the choices of the model,
logs 41, 43). From 20_memory.md section 1, 20_memory.md section 3, 20_memory.md section 5, 40_load_store.md section 1,
92_eei_decisions.md section 1. -/
def Obligations.MemoryIsLittleEndian : Prop :=
  ∀ (s : State) (a v : Word) (b : Byte),
    (∀ k : Nat, k < 4 → byteOf (wordAt s a) k = s.read8 (a + BitVec.ofNat 32 k)) ∧
    wordAt (s.write32 a v) a = v ∧ lowHalf (wordAt (s.write16 a v) a) = lowHalf v ∧ (s.write8 a b).read8 a = b ∧
    Stored a 4 v (s.write32 a v) ∧ Stored a 2 v (s.write16 a v) ∧
    MemExcept a 4 s (s.write32 a v) ∧ MemExcept a 2 s (s.write16 a v) ∧ MemExcept a 1 s (s.write8 a b) ∧
    s.busRead8 a = s.busByte a 1 0 ∧ s.busRead16 a = s.busByte a 2 1 ++ s.busByte a 2 0 ∧
    s.busRead32 a = wordOf (s.busByte a 4) ∧
    (∀ n ∈ [1, 2, 4], Plain s a n →
      (∀ k : Nat, k < n → s.busByte a n k = s.read8 (a + BitVec.ofNat 32 k)) ∧ s.busError a n = none ∧
      s.afterRead a n = s ∧ Stored a n v (s.busWrite a n v) ∧ MemExcept a n s (s.busWrite a n v) ∧
      s.busWrite a n v = { s with mem := (s.busWrite a n v).mem } ∧
      ∀ k : Nat, k < n → (s.busWrite a n v).busByte a n k = byteOf v k) ∧
    (∀ n ∈ [1, 2, 4], a.toNat % n = 0 → ¬Plain s a n →
      (∀ k : Nat, k < n → s.busByte a n k = byteOf s.answer.value k) ∧ s.busError a n = s.answer.error ∧
      s.afterRead a n = s.note (.busRead a n) ∧
      s.busWrite a n v = s.note (.busWrite a n (BitVec.ofNat 32 (v.toNat % 2 ^ (8 * n))))) ∧
    (∀ n ∈ [2, 4], a.toNat % n ≠ 0 → ∀ (rd wr : Nat → State) (err : Nat → Option AccessError),
      rd = (fun k => (List.range k).foldl (fun u j => u.afterRead (a + BitVec.ofNat 32 j) 1) s) →
      wr = (fun k => (List.range k).foldl
        (fun u j => u.busWrite (a + BitVec.ofNat 32 j) 1 ((byteOf v j).setWidth 32)) s) →
      err = (fun k => (rd k).busError (a + BitVec.ofNat 32 k) 1) →
      ((∀ k : Nat, k < n → err k = none) →
        s.busError a n = none ∧ s.afterRead a n = rd n ∧ s.busWrite a n v = wr n ∧
        ∀ k : Nat, k < n → s.busByte a n k = (rd k).busByte (a + BitVec.ofNat 32 k) 1 0) ∧
      ∀ (k : Nat) (e : AccessError), k < n → err k = some e → (∀ j : Nat, j < k → err j = none) →
        s.busError a n = some e ∧ s.afterRead a n = rd (k + 1) ∧
        s.busWrite a n v = { wr (k + 1) with mem := s.mem } ∧
        (wr k).busError (a + BitVec.ofNat 32 k) 1 = some e) ∧
    (∀ e : Event, OnlyAsked s (s.note e) ∧ (s.note e).answers = s.answers.tail ∧ (s.note e).events = e :: s.events) ∧
    (∀ (x : Answer) (l : List Answer), s.answers = x :: l → s.answer = x) ∧ (s.answers = [] → s.answer.error = none)

/-- The addresses of LD, ST, SLD and SST. LD and ST add the sign-extended displacement to reg1, SLD and SST the zero-extended
displacement to r30; the halfword forms have displacements that are twice the encoded number, the word short forms four
times, and the byte forms every value. Formalises R236. -/
def Obligations.AddressForms : Prop :=
  ∀ (s : State) (R : Reg),
    (∀ d : Half, s.addr16 d R = s.readReg R + BitVec.ofInt 32 d.toInt) ∧
    (∀ d : BitVec 15, s.addr15 d R = s.readReg R + BitVec.ofInt 32 (2 * d.toInt)) ∧
    (∀ d : BitVec 23, s.addr23 d R = s.readReg R + BitVec.ofInt 32 d.toInt) ∧
    (∀ d : BitVec 22, s.addr22 d R = s.readReg R + BitVec.ofInt 32 (2 * d.toInt)) ∧
    (∀ d : BitVec 7, s.epAddr7 d = s.readReg 30 + BitVec.ofNat 32 d.toNat) ∧
    (∀ d : BitVec 4, s.epAddr4 d = s.readReg 30 + BitVec.ofNat 32 d.toNat) ∧
    (∀ d : BitVec 4, s.epAddr5 d = s.readReg 30 + BitVec.ofNat 32 (2 * d.toNat)) ∧
    (∀ d : BitVec 7, s.epAddr8 d = s.readReg 30 + BitVec.ofNat 32 (2 * d.toNat)) ∧
    (∀ d : BitVec 6, s.epAddr8w d = s.readReg 30 + BitVec.ofNat 32 (4 * d.toNat))

/-- A permitted load completes with the extended datum in its destination and changes nothing else. LD.B, LD.BU, LD.H, LD.HU,
LD.W with disp16 and disp23 and SLD.B, SLD.BU, SLD.H, SLD.HU, SLD.W: when the access is permitted (always while PSW.DMP = 0)
the instruction completes, the destination receives the sign- or zero-extended little-endian datum in memory (r0 discards
it), and no other register, flag, system register or byte of memory changes; no alignment is needed. Where the platform
answers at one of the addresses the datum is what MemRead gives and the platform is asked besides (D4, logs 3, 43). With an
error that the platform reports for the access (R122) it ends instead with the exception of the error, SYSERR or MEP, at its
own address, and neither register nor memory is written (R235(4)); that the answer tells the exception is log 41, that its
entry ends a lag of PSW.IMP log 19. From 40_load_store.md section 1, 40_load_store.md section 2, 20_memory.md section 5,
60_exceptions.md section 5. -/
def Obligations.LoadsGiveMemory : Prop :=
  ∀ (s : State) (R r : Reg),
    (∀ d, LoadGives (.ldB d R r) s (s.addr16 d R) 1 (isSp R) r sByte 4) ∧
    (∀ d, LoadGives (.ldBu d R r) s (s.addr16 d R) 1 (isSp R) r uByte 4) ∧
    (∀ d, LoadGives (.ldH d R r) s (s.addr15 d R) 2 (isSp R) r sHalf 4) ∧
    (∀ d, LoadGives (.ldHu d R r) s (s.addr15 d R) 2 (isSp R) r uHalf 4) ∧
    (∀ d, LoadGives (.ldW d R r) s (s.addr15 d R) 4 (isSp R) r wordOf 4) ∧
    (∀ d, LoadGives (.ldBDisp23 d R r) s (s.addr23 d R) 1 (isSp R) r sByte 6) ∧
    (∀ d, LoadGives (.ldBuDisp23 d R r) s (s.addr23 d R) 1 (isSp R) r uByte 6) ∧
    (∀ d, LoadGives (.ldHDisp23 d R r) s (s.addr22 d R) 2 (isSp R) r sHalf 6) ∧
    (∀ d, LoadGives (.ldHuDisp23 d R r) s (s.addr22 d R) 2 (isSp R) r uHalf 6) ∧
    (∀ d, LoadGives (.ldWDisp23 d R r) s (s.addr22 d R) 4 (isSp R) r wordOf 6) ∧
    (∀ d, LoadGives (.sldB d r) s (s.epAddr7 d) 1 false r sByte 2) ∧
    (∀ d, LoadGives (.sldBu d r) s (s.epAddr4 d) 1 false r uByte 2) ∧
    (∀ d, LoadGives (.sldH d r) s (s.epAddr8 d) 2 false r sHalf 2) ∧
    (∀ d, LoadGives (.sldHu d r) s (s.epAddr5 d) 2 false r uHalf 2) ∧
    (∀ d, LoadGives (.sldW d r) s (s.epAddr8w d) 4 false r wordOf 2)

/-- A permitted store completes with its bytes in memory and changes nothing else. ST.B, ST.H, ST.W with disp16 and disp23 and
SST.B, SST.H, SST.W: when the access is permitted the instruction completes, the 1, 2 or 4 low bytes of the source register
stand little-endian at the address, every other byte of memory reads as before, and no register, flag or system register
changes. Where the platform answers at one of the addresses it is told by MemWrite instead (D4, logs 3, 43). With an error
that the platform reports for the access (R122) it ends instead with the exception of the error, SYSERR or MEP, at its own
address, and neither register nor memory is written (R235(4)); that the answer tells the exception is log 41, that its entry
ends a lag of PSW.IMP log 19. From 40_load_store.md section 1, 40_load_store.md section 3, 20_memory.md section 5,
60_exceptions.md section 5. -/
def Obligations.StoresWriteMemory : Prop :=
  ∀ (s : State) (R r : Reg),
    (∀ d, StoreGives (.stB r d R) s (s.addr16 d R) 1 (isSp R) (s.readReg r) 4) ∧
    (∀ d, StoreGives (.stH r d R) s (s.addr15 d R) 2 (isSp R) (s.readReg r) 4) ∧
    (∀ d, StoreGives (.stW r d R) s (s.addr15 d R) 4 (isSp R) (s.readReg r) 4) ∧
    (∀ d, StoreGives (.stBDisp23 r d R) s (s.addr23 d R) 1 (isSp R) (s.readReg r) 6) ∧
    (∀ d, StoreGives (.stHDisp23 r d R) s (s.addr22 d R) 2 (isSp R) (s.readReg r) 6) ∧
    (∀ d, StoreGives (.stWDisp23 r d R) s (s.addr22 d R) 4 (isSp R) (s.readReg r) 6) ∧
    (∀ d, StoreGives (.sstB r d) s (s.epAddr7 d) 1 false (s.readReg r) 2) ∧
    (∀ d, StoreGives (.sstH r d) s (s.epAddr8 d) 2 false (s.readReg r) 2) ∧
    (∀ d, StoreGives (.sstW r d) s (s.epAddr8w d) 4 false (s.readReg r) 2)

/-- When a data access violates the protection. An access of 1, 2 or 4 bytes violates exactly when PSW.DMP = 1 and it is not the
case that all its bytes lie in the 64 MB space and, when it is aligned, each needed permission is granted by some area in
force that covers it, and, when it is misaligned, one area in force covers it and grants all of them. The unsigned
comparison of area ends and the S bit of a misaligned sp-relative access are decisions D11 and D13 of the spec (log 34).
From 20_memory.md section 7, 92_eei_decisions.md section 1. -/
def Obligations.DataCheckDecidesViolation : Prop :=
  ∀ (s : State) (acc : Access), acc.size = 1 ∨ acc.size = 2 ∨ acc.size = 4 →
    (s.violates acc = true ↔ s.pswDMP = true ∧
      ¬((∀ k : Nat, k < acc.size → (acc.addr + BitVec.ofNat 32 k).toNat < 0x02000000 ∨
            0xFE000000 ≤ (acc.addr + BitVec.ofNat 32 k).toNat) ∧
        (acc.addr.toNat % acc.size = 0 → ∀ k : Perm, Needs acc k →
          ∃ n : Fin 4, AreaCovers s n acc.addr.toNat (acc.addr.toNat + acc.size - 1) ∧ AreaGrants s n k) ∧
        (acc.addr.toNat % acc.size ≠ 0 →
          ∃ n : Fin 4, AreaCovers s n acc.addr.toNat (acc.addr.toNat + acc.size - 1) ∧
            ∀ k : Perm, Needs acc k → AreaGrants s n k)))

/-- An instruction whose data access violates the protection enters MDP and has no other effect. For every instruction with one
data access (LD, ST, SLD, SST, SET1, NOT1, CLR1, TST1, CAXI, CALLT, SWITCH): when that access violates the protection, the
instruction ends in the entry of MDP with code 431H, return PC = pc, VMTID = TID, VMADR the address of the access, VMECR by
its kind, NP = ID = EP = 1, NPV = DMP = IMP = 0 whatever AUE is, at EH_BASE + 30H; no general register and no byte of memory
changes, and nothing is requested of the platform. That the entry ends a lag of PSW.IMP is the choice of the model (log 19).
From 20_memory.md section 7, 60_exceptions.md section 8, 60_exceptions.md section 5, 70_reset_and_hazards.md section 3. -/
def Obligations.ViolatedAccessEntersMdp : Prop :=
  ∀ (i : Instr) (s : State) (acc : Access), dataAccess i s = some acc → s.violates acc = true →
    ∃ t, exec i s = .next t ∧
      EntersFe 0x431 s.pc (s.sys.ehBase + 0x30) false true (violationRecorded s acc.addr acc.vmecr) s t ∧
      RegsExcept [] s t ∧ MemSame s t

/-- The value that MDP writes to VMECR, by the kind of the access. Aligned reads (LD, SLD, CALLT, SWITCH, TST1) 04H or 14H
sp-relative, aligned writes (ST, SST) 08H or 18H, misaligned LD, SLD 44H or 54H, misaligned ST, SST 48H or 58H, CAXI, SET1,
NOT1, CLR1 24H or 34H whatever the alignment, PREPARE 18H, DISPOSE 14H. Formalises R552. -/
def Obligations.ViolationCauseTable : Prop :=
  ∀ (a : Word) (n : Nat) (sp : Bool),
    (a.toNat % n = 0 → (loadAccess a n sp).vmecr = if sp then 0x14 else 0x04) ∧
    (a.toNat % n = 0 → (storeAccess a n sp).vmecr = if sp then 0x18 else 0x08) ∧
    (a.toNat % n ≠ 0 → (loadAccess a n sp).vmecr = if sp then 0x54 else 0x44) ∧
    (a.toNat % n ≠ 0 → (storeAccess a n sp).vmecr = if sp then 0x58 else 0x48) ∧
    (tableAccess a).vmecr = 0x04 ∧ (testAccess a sp).vmecr = (if sp then 0x14 else 0x04) ∧
    (modifyAccess a n sp).vmecr = (if sp then 0x34 else 0x24) ∧
    (pushAccess a).vmecr = 0x18 ∧ (popAccess a).vmecr = 0x14

/-- When the fetch of an instruction violates the protection. The execution check fails exactly when the IMP bit in force is 1
and some halfword of the code at the PC is covered by no area in force with X = 1. The bit in force is PSW.IMP, or its old
value while a change by LDSR still lags (log 19); that each halfword is judged on its own is decision D12 of the spec (log
34). From 20_memory.md section 7, 70_reset_and_hazards.md section 3, 92_eei_decisions.md section 1. -/
def Obligations.ExecutionCheckDecidesViolation : Prop :=
  ∀ s : State, s.fetchViolates = true ↔
    (if s.impLag = 0 then s.pswIMP else s.impOld) = true ∧
      ∃ k : Nat, 2 * k < s.fetchLength ∧
        ¬∃ n : Fin 4, AreaGrants s n .x ∧
          AreaCovers s n (pcmask (s.pc + BitVec.ofNat 32 (2 * k))).toNat
            ((pcmask (s.pc + BitVec.ofNat 32 (2 * k))).toNat + 1)

/-- MUL, MULU, MULH and MULHI give the exact product. MUL and MULU (register and imm9) complete with the high word of the exact
signed or unsigned 64-bit product in reg3 and the low word in reg2 (with reg2 = reg3 the high word stays); MULH (register
and imm5) and MULHI complete with the exact signed product of the two halfwords; r0 discards; nothing else changes, no flag
either. The operation of MULHI is general knowledge in the spec (log 21). From 41_multiply_mac.md section 1,
41_multiply_mac.md section 2, 30_encoding.md section 4, 93_implementation_defined.md List G. -/
def Obligations.MultiplicationsGiveProducts : Prop :=
  ∀ (s : State) (R r w : Reg),
    (∃ (hi lo : Word) (t : State), (hi ++ lo).toInt = (s.readReg r).toInt * (s.readReg R).toInt ∧
      exec (.mul R r w) s = .next t ∧ ProductInto r w hi lo s t) ∧
    (∀ i : BitVec 9, ∃ (hi lo : Word) (t : State), (hi ++ lo).toInt = (s.readReg r).toInt * i.toInt ∧
      exec (.mulImm9 i r w) s = .next t ∧ ProductInto r w hi lo s t) ∧
    (∃ (hi lo : Word) (t : State), (hi ++ lo).toNat = (s.readReg r).toNat * (s.readReg R).toNat ∧
      exec (.mulu R r w) s = .next t ∧ ProductInto r w hi lo s t) ∧
    (∀ i : BitVec 9, ∃ (hi lo : Word) (t : State), (hi ++ lo).toNat = (s.readReg r).toNat * i.toNat ∧
      exec (.muluImm9 i r w) s = .next t ∧ ProductInto r w hi lo s t) ∧
    (∃ (v : Word) (t : State), v.toInt = (lowHalf (s.readReg r)).toInt * (lowHalf (s.readReg R)).toInt ∧
      exec (.mulh R r) s = .next t ∧ SetsReg r v 2 s t) ∧
    (∀ i : BitVec 5, ∃ (v : Word) (t : State), v.toInt = (lowHalf (s.readReg r)).toInt * i.toInt ∧
      exec (.mulhImm5 i r) s = .next t ∧ SetsReg r v 2 s t) ∧
    (∀ i : Half, ∃ (v : Word) (t : State), v.toInt = (lowHalf (s.readReg R)).toInt * i.toInt ∧
      exec (.mulhi i R r) s = .next t ∧ SetsReg r v 4 s t)

/-- MAC and MACU give product plus pair, modulo 2^64. MAC and MACU complete with the signed or unsigned product of reg2 and reg1
plus the pair reg3+1 : reg3, modulo 2^64, in the pair reg4+1 : reg4, all sources read first; r0 discards the low word;
nothing else changes. The pairing is general knowledge in the spec (log 21). From 41_multiply_mac.md section 3,
93_implementation_defined.md List G. -/
def Obligations.MultiplyAddGivesSum : Prop :=
  ∀ (s : State) (R r : Reg) (w m : RegPair),
    (∃ (hi lo : Word) (t : State),
      hi ++ lo = BitVec.ofInt 64 ((s.readReg r).toInt * (s.readReg R).toInt +
        (s.readReg (pairHigh w) ++ s.readReg (pairLow w)).toInt) ∧
      exec (.mac R r w m) s = .next t ∧ PairInto m hi lo s t) ∧
    (∃ (hi lo : Word) (t : State),
      hi ++ lo = BitVec.ofNat 64 ((s.readReg r).toNat * (s.readReg R).toNat +
        (s.readReg (pairHigh w) ++ s.readReg (pairLow w)).toNat) ∧
      exec (.macu R r w m) s = .next t ∧ PairInto m hi lo s t)

/-- MOV, MOVEA, MOVHI, SXB, SXH, ZXB, ZXH give their value and change nothing else. Each completes with the value in its
destination (r0 discards it): a copy, the sign-extended imm5, imm32, reg1 plus the sign-extended imm16, reg1 plus 65536
times imm16, the sign- or zero-extended low byte or halfword; no other register, flag, system register or byte of memory
changes. MOVEA and MOVHI are general knowledge in the spec (log 21). From 42_arithmetic.md section 2,
45_data_manipulation.md section 4, 30_encoding.md section 4, 93_implementation_defined.md List G. -/
def Obligations.MovesAndExtensions : Prop :=
  ∀ (s : State) (R r : Reg),
    (∃ t, exec (.mov R r) s = .next t ∧ SetsReg r (s.readReg R) 2 s t) ∧
    (∀ i : BitVec 5, ∃ t, exec (.movImm5 i r) s = .next t ∧ SetsReg r (BitVec.ofInt 32 i.toInt) 2 s t) ∧
    (∀ i : Word, ∃ t, exec (.movImm32 i r) s = .next t ∧ SetsReg r i 6 s t) ∧
    (∀ i : Half, ∃ t, exec (.movea i R r) s = .next t ∧ SetsReg r (s.readReg R + BitVec.ofInt 32 i.toInt) 4 s t) ∧
    (∀ i : Half, ∃ t, exec (.movhi i R r) s = .next t ∧
      SetsReg r (s.readReg R + BitVec.ofNat 32 (65536 * i.toNat)) 4 s t) ∧
    (∃ t, exec (.sxb r) s = .next t ∧ SetsReg r (BitVec.ofInt 32 (byteOf (s.readReg r) 0).toInt) 2 s t) ∧
    (∃ t, exec (.sxh r) s = .next t ∧ SetsReg r (BitVec.ofInt 32 (lowHalf (s.readReg r)).toInt) 2 s t) ∧
    (∃ t, exec (.zxb r) s = .next t ∧ SetsReg r (BitVec.ofNat 32 ((s.readReg r).toNat % 256)) 2 s t) ∧
    (∃ t, exec (.zxh r) s = .next t ∧ SetsReg r (BitVec.ofNat 32 ((s.readReg r).toNat % 65536)) 2 s t)

/-- ADD, ADDI and ADF give the sum and the flags of the addition. ADD (register and imm5), ADDI and ADF (which adds 1 when its
condition holds) complete with the sum modulo 2^32 in the destination and CY, OV, S, Z of that addition by R293; SAT, every
other PSW bit, every other register, the system registers and memory are unchanged; r0 discards the sum and the flags are
still written. ADDI and ADF are general knowledge in the spec (log 21). From 42_arithmetic.md section 1, 42_arithmetic.md
section 2, 42_arithmetic.md section 3, 93_implementation_defined.md List G. -/
def Obligations.AdditionsGiveSumAndFlags : Prop :=
  ∀ (s : State) (R r w : Reg),
    (∃ t, exec (.add R r) s = .next t ∧ SumInto r (s.readReg r) (s.readReg R) 0 2 s t) ∧
    (∀ i : BitVec 5, ∃ t, exec (.addImm5 i r) s = .next t ∧
      SumInto r (s.readReg r) (BitVec.ofInt 32 i.toInt) 0 2 s t) ∧
    (∀ i : Half, ∃ t, exec (.addi i R r) s = .next t ∧ SumInto r (s.readReg R) (BitVec.ofInt 32 i.toInt) 0 4 s t) ∧
    (∀ cc : Cond, ∃ t, exec (.adf cc R r w) s = .next t ∧
      SumInto w (s.readReg r) (s.readReg R) (if s.cond cc then 1 else 0) 4 s t)

/-- SUB, SUBR, SBF and CMP give the difference and the flags of the subtraction. SUB, SUBR and SBF (which subtracts 1 more when
its condition holds) complete with the difference modulo 2^32 in the destination, CMP (register and imm5) without writing a
register; CY (the borrow), OV, S, Z are those of the subtraction by R294; everything else is unchanged. SUB, SUBR and SBF
are general knowledge in the spec (log 21). From 42_arithmetic.md section 1, 42_arithmetic.md section 2, 42_arithmetic.md
section 3, 93_implementation_defined.md List G. -/
def Obligations.SubtractionsGiveDifferenceAndFlags : Prop :=
  ∀ (s : State) (R r w : Reg),
    (∃ t, exec (.sub R r) s = .next t ∧ DifferenceInto r (s.readReg r) (s.readReg R) 0 2 s t) ∧
    (∃ t, exec (.subr R r) s = .next t ∧ DifferenceInto r (s.readReg R) (s.readReg r) 0 2 s t) ∧
    (∀ cc : Cond, ∃ t, exec (.sbf cc R r w) s = .next t ∧
      DifferenceInto w (s.readReg r) (s.readReg R) (if s.cond cc then 1 else 0) 4 s t) ∧
    (∃ t, exec (.cmp R r) s = .next t ∧ DifferenceFlags (s.readReg r) (s.readReg R) 0 t ∧
      Frame [] arithBits s t ∧ Falls 2 s t) ∧
    (∀ i : BitVec 5, ∃ t, exec (.cmpImm5 i r) s = .next t ∧
      DifferenceFlags (s.readReg r) (BitVec.ofInt 32 i.toInt) 0 t ∧ Frame [] arithBits s t ∧ Falls 2 s t)

/-- SATADD, SATSUB, SATSUBI and SATSUBR give the saturated result and its flags. Each of the seven forms completes with the
exact sum or difference cut to the range of a signed word in the destination; CY is the carry or borrow of the unsigned
operation on the operands, OV says that the exact result does not fit, S and Z are those of the saturated result, SAT is set
when OV = 1 and kept otherwise; everything else is unchanged. The sign extension of SATSUBI and the operand order of SATSUBR
are general knowledge in the spec (log 21). From 43_saturated.md section 1, 43_saturated.md section 2,
93_implementation_defined.md List G. -/
def Obligations.SaturatedOperations : Prop :=
  ∀ (s : State) (R r w : Reg),
    (∃ t, exec (.satadd R r) s = .next t ∧ SaturatesInto r ((s.readReg r).toInt + (s.readReg R).toInt)
      (2 ^ 32 ≤ (s.readReg r).toNat + (s.readReg R).toNat) 2 s t) ∧
    (∀ i : BitVec 5, ∃ t, exec (.sataddImm5 i r) s = .next t ∧ SaturatesInto r ((s.readReg r).toInt + i.toInt)
      (2 ^ 32 ≤ (s.readReg r).toNat + (BitVec.ofInt 32 i.toInt).toNat) 2 s t) ∧
    (∃ t, exec (.satadd3 R r w) s = .next t ∧ SaturatesInto w ((s.readReg r).toInt + (s.readReg R).toInt)
      (2 ^ 32 ≤ (s.readReg r).toNat + (s.readReg R).toNat) 4 s t) ∧
    (∃ t, exec (.satsub R r) s = .next t ∧ SaturatesInto r ((s.readReg r).toInt - (s.readReg R).toInt)
      ((s.readReg r).toNat < (s.readReg R).toNat) 2 s t) ∧
    (∃ t, exec (.satsub3 R r w) s = .next t ∧ SaturatesInto w ((s.readReg r).toInt - (s.readReg R).toInt)
      ((s.readReg r).toNat < (s.readReg R).toNat) 4 s t) ∧
    (∀ i : Half, ∃ t, exec (.satsubi i R r) s = .next t ∧ SaturatesInto r ((s.readReg R).toInt - i.toInt)
      ((s.readReg R).toNat < (BitVec.ofInt 32 i.toInt).toNat) 4 s t) ∧
    (∃ t, exec (.satsubr R r) s = .next t ∧ SaturatesInto r ((s.readReg R).toInt - (s.readReg r).toInt)
      ((s.readReg R).toNat < (s.readReg r).toNat) 2 s t)

/-- AND, OR, XOR, NOT, TST and the immediate forms give the bitwise result and its flags. Each completes with the bitwise result
in its destination (TST writes no register; imm16 is zero-extended); OV = 0, S is bit 31 of the result, Z its zero test, CY
and SAT and everything else are unchanged. Part of the operations and the zero extension are general knowledge in the spec
(log 21). From 44_logic.md section 1, 44_logic.md section 2, 93_implementation_defined.md List G. -/
def Obligations.LogicalOperations : Prop :=
  ∀ (s : State) (R r : Reg),
    (∃ t, exec (.and R r) s = .next t ∧ LogicInto [r] (s.readReg r &&& s.readReg R) 2 s t) ∧
    (∃ t, exec (.or R r) s = .next t ∧ LogicInto [r] (s.readReg r ||| s.readReg R) 2 s t) ∧
    (∃ t, exec (.xor R r) s = .next t ∧ LogicInto [r] (s.readReg r ^^^ s.readReg R) 2 s t) ∧
    (∃ t, exec (.not R r) s = .next t ∧ LogicInto [r] (~~~(s.readReg R)) 2 s t) ∧
    (∃ t, exec (.tst R r) s = .next t ∧ LogicInto [] (s.readReg r &&& s.readReg R) 2 s t) ∧
    (∀ i : Half, ∃ t, exec (.andi i R r) s = .next t ∧
      LogicInto [r] (s.readReg R &&& BitVec.ofNat 32 i.toNat) 4 s t) ∧
    (∀ i : Half, ∃ t, exec (.ori i R r) s = .next t ∧
      LogicInto [r] (s.readReg R ||| BitVec.ofNat 32 i.toNat) 4 s t) ∧
    (∀ i : Half, ∃ t, exec (.xori i R r) s = .next t ∧
      LogicInto [r] (s.readReg R ^^^ BitVec.ofNat 32 i.toNat) 4 s t)

/-- SHL, SHR and SAR move every bit by the count and give the flags of the shift. In each of the nine forms, with the count n
the low five bits of reg1 or imm5, every bit of the result is the bit n places away (0 comes in for SHL and SHR, the sign
for SAR); CY is the last bit shifted out, 0 for n = 0, OV = 0, S and Z are those of the result, everything else is
unchanged. With n = 0 the three-operand forms write the unshifted value (the choice of the spec, log 32). From
45_data_manipulation.md section 1, 90_conflicts.md C21. -/
def Obligations.ShiftsMoveBits : Prop :=
  ∀ (s : State) (R r w : Reg) (i : BitVec 5),
    (∀ (n : Nat) (v : Word), v = s.readReg r →
      ((n = (s.readReg R).toNat % 32 →
        (∃ t, exec (.shl R r) s = .next t ∧
          ShiftInto r (fun k => decide (n ≤ k) && v.getLsbD (k - n)) (decide (n ≠ 0) && v.getLsbD (32 - n)) 4 s t) ∧
        (∃ t, exec (.shl3 R r w) s = .next t ∧
          ShiftInto w (fun k => decide (n ≤ k) && v.getLsbD (k - n)) (decide (n ≠ 0) && v.getLsbD (32 - n)) 4 s t) ∧
        (∃ t, exec (.shr R r) s = .next t ∧
          ShiftInto r (fun k => v.getLsbD (k + n)) (decide (n ≠ 0) && v.getLsbD (n - 1)) 4 s t) ∧
        (∃ t, exec (.shr3 R r w) s = .next t ∧
          ShiftInto w (fun k => v.getLsbD (k + n)) (decide (n ≠ 0) && v.getLsbD (n - 1)) 4 s t) ∧
        (∃ t, exec (.sar R r) s = .next t ∧
          ShiftInto r (fun k => v.getLsbD (min (k + n) 31)) (decide (n ≠ 0) && v.getLsbD (n - 1)) 4 s t) ∧
        (∃ t, exec (.sar3 R r w) s = .next t ∧
          ShiftInto w (fun k => v.getLsbD (min (k + n) 31)) (decide (n ≠ 0) && v.getLsbD (n - 1)) 4 s t)) ∧
      (n = i.toNat →
        (∃ t, exec (.shlImm5 i r) s = .next t ∧
          ShiftInto r (fun k => decide (n ≤ k) && v.getLsbD (k - n)) (decide (n ≠ 0) && v.getLsbD (32 - n)) 2 s t) ∧
        (∃ t, exec (.shrImm5 i r) s = .next t ∧
          ShiftInto r (fun k => v.getLsbD (k + n)) (decide (n ≠ 0) && v.getLsbD (n - 1)) 2 s t) ∧
        (∃ t, exec (.sarImm5 i r) s = .next t ∧
          ShiftInto r (fun k => v.getLsbD (min (k + n) 31)) (decide (n ≠ 0) && v.getLsbD (n - 1)) 2 s t))))

/-- BSW, BSH, HSW and HSH give the exchanged bytes or halfwords and their flags. BSW reverses the four bytes, BSH exchanges the
two bytes of each halfword, HSW the two halfwords, HSH copies; CY says that a byte (BSW), a byte of the low halfword (BSH),
a halfword (HSW) or the low halfword (HSH) of the result is 0, Z that the result (BSW, HSW) or its low halfword (BSH, HSH)
is 0, OV = 0, S is the sign; everything else is unchanged. The conditions are general knowledge in the spec (log 21). From
45_data_manipulation.md section 2, 93_implementation_defined.md List G. -/
def Obligations.SwapsExchangeBytes : Prop :=
  ∀ (s : State) (r w : Reg) (v : Word), v = s.readReg r →
    (∃ (u : Word) (t : State), (∀ k, k < 4 → byteOf u k = byteOf v (3 - k)) ∧ exec (.bsw r w) s = .next t ∧
      SwapInto w u (∃ k, k < 4 ∧ byteOf u k = 0) (u = 0) s t) ∧
    (∃ (u : Word) (t : State), (byteOf u 0 = byteOf v 1 ∧ byteOf u 1 = byteOf v 0 ∧ byteOf u 2 = byteOf v 3 ∧
        byteOf u 3 = byteOf v 2) ∧ exec (.bsh r w) s = .next t ∧
      SwapInto w u (∃ k, k < 2 ∧ byteOf u k = 0) (lowHalf u = 0) s t) ∧
    (∃ (u : Word) (t : State), (lowHalf u = highHalf v ∧ highHalf u = lowHalf v) ∧ exec (.hsw r w) s = .next t ∧
      SwapInto w u (lowHalf u = 0 ∨ highHalf u = 0) (u = 0) s t) ∧
    (∃ t, exec (.hsh r w) s = .next t ∧ SwapInto w v (lowHalf v = 0) (lowHalf v = 0) s t)

/-- The sixteen condition codes. Each of the sixteen codes cccc holds exactly when the flags are as the condition table says.
Formalises R13. -/
def Obligations.ConditionCodeTable : Prop :=
  ∀ s : State,
    (s.cond (condOf 0b0000) = true ↔ s.flagOV = true) ∧ (s.cond (condOf 0b1000) = true ↔ s.flagOV = false) ∧
    (s.cond (condOf 0b0001) = true ↔ s.flagCY = true) ∧ (s.cond (condOf 0b1001) = true ↔ s.flagCY = false) ∧
    (s.cond (condOf 0b0010) = true ↔ s.flagZ = true) ∧ (s.cond (condOf 0b1010) = true ↔ s.flagZ = false) ∧
    (s.cond (condOf 0b0011) = true ↔ s.flagCY = true ∨ s.flagZ = true) ∧
    (s.cond (condOf 0b1011) = true ↔ s.flagCY = false ∧ s.flagZ = false) ∧
    (s.cond (condOf 0b0100) = true ↔ s.flagS = true) ∧ (s.cond (condOf 0b1100) = true ↔ s.flagS = false) ∧
    s.cond (condOf 0b0101) = true ∧ (s.cond (condOf 0b1101) = true ↔ s.flagSAT = true) ∧
    (s.cond (condOf 0b0110) = true ↔ s.flagS ≠ s.flagOV) ∧ (s.cond (condOf 0b1110) = true ↔ s.flagS = s.flagOV) ∧
    (s.cond (condOf 0b0111) = true ↔ s.flagS ≠ s.flagOV ∨ s.flagZ = true) ∧
    (s.cond (condOf 0b1111) = true ↔ s.flagS = s.flagOV ∧ s.flagZ = false)

/-- CMOV, SETF and SASF give their value by the condition. CMOV (register and imm5) completes with its first operand when the
condition holds and with reg2 otherwise, SETF with 1 or 0, SASF with twice reg2 plus 1 or 0; nothing else changes, no flag
either. SETF and SASF are general knowledge in the spec (log 21). From 45_data_manipulation.md section 3,
93_implementation_defined.md List G. -/
def Obligations.ConditionalData : Prop :=
  ∀ (s : State) (cc : Cond) (R r w : Reg),
    (∃ t, exec (.cmov cc R r w) s = .next t ∧
      SetsReg w (if s.cond cc then s.readReg R else s.readReg r) 4 s t) ∧
    (∀ i : BitVec 5, ∃ t, exec (.cmovImm5 cc i r w) s = .next t ∧
      SetsReg w (if s.cond cc then BitVec.ofInt 32 i.toInt else s.readReg r) 4 s t) ∧
    (∃ t, exec (.setf cc r) s = .next t ∧ SetsReg r (if s.cond cc then 1 else 0) 4 s t) ∧
    (∃ t, exec (.sasf cc r) s = .next t ∧
      SetsReg r (s.readReg r + s.readReg r + (if s.cond cc then 1 else 0)) 4 s t)

/-- SCH0L, SCH0R, SCH1L and SCH1R give the position of the first bit found. Counting positions from 1 at bit 31 downwards (L) or
at bit 0 upwards (R): when k is the first position whose bit is the searched one, reg3 receives k, Z = 0 and CY = 1 exactly
for k = 32; when no bit is, reg3 receives 0, Z = 1, CY = 0; OV = S = 0; SAT and everything else are unchanged. SCH0R, SCH1L
and SCH1R with their directions are general knowledge in the spec (log 21). From 45_data_manipulation.md section 5,
93_implementation_defined.md List G. -/
def Obligations.BitSearches : Prop :=
  ∀ (s : State) (r w : Reg),
    (∃ t, exec (.sch0l r w) s = .next t ∧ SearchInto w false (s.readReg r) (fun k => 32 - k) s t) ∧
    (∃ t, exec (.sch0r r w) s = .next t ∧ SearchInto w false (s.readReg r) (fun k => k - 1) s t) ∧
    (∃ t, exec (.sch1l r w) s = .next t ∧ SearchInto w true (s.readReg r) (fun k => 32 - k) s t) ∧
    (∃ t, exec (.sch1r r w) s = .next t ∧ SearchInto w true (s.readReg r) (fun k => k - 1) s t)

/-- DIV, DIVQ and both forms of DIVH give quotient, remainder and flags for a divisor that is not 0. With reg2 not reg3 and a
divisor that is not 0 each completes with the quotient rounded toward zero in reg2 and the remainder in reg3 (two-operand
DIVH stores no remainder), OV = 0, S and Z of the quotient; 80000000H / -1 gives 80000000H with OV = 1; CY, SAT and
everything else are unchanged. The rounding and the remainder 0 of the overflow case are decision D18 of the spec (log 9). A
divisor of 0 and reg2 = reg3 are logs 7, 8 and 40. From 46_divide.md section 1, 46_divide.md section 2, 46_divide.md section
3, 92_eei_decisions.md section 1. -/
def Obligations.SignedDivisions : Prop :=
  ∀ (s : State) (R r w : Reg) (a b c : Int), a = (s.readReg r).toInt → b = (s.readReg R).toInt →
    c = (lowHalf (s.readReg R)).toInt →
    (r ≠ w → b ≠ 0 → ∃ (t : State) (q m : Word), exec (.div R r w) s = .next t ∧ SignedResults a b q m t ∧
      t.readReg r = written r q ∧ t.readReg w = written w m ∧ DivideFrame [r, w] 4 s t) ∧
    (r ≠ w → b ≠ 0 → ∃ (t : State) (q m : Word), exec (.divq R r w) s = .next t ∧ SignedResults a b q m t ∧
      t.readReg r = written r q ∧ t.readReg w = written w m ∧ DivideFrame [r, w] 4 s t) ∧
    (r ≠ w → c ≠ 0 → ∃ (t : State) (q m : Word), exec (.divh3 R r w) s = .next t ∧ SignedResults a c q m t ∧
      t.readReg r = written r q ∧ t.readReg w = written w m ∧ DivideFrame [r, w] 4 s t) ∧
    (c ≠ 0 → ∃ (t : State) (q m : Word), exec (.divh R r) s = .next t ∧ SignedResults a c q m t ∧
      t.readReg r = written r q ∧ DivideFrame [r] 2 s t)

/-- DIVU, DIVQU and DIVHU give quotient, remainder and flags for a divisor that is not 0. With reg2 not reg3 and a divisor that
is not 0 each completes with the natural-number quotient in reg2 and the remainder in reg3, OV = 0, S is bit 31 of the
quotient, Z its zero test; CY, SAT and everything else are unchanged. From 46_divide.md section 1, 46_divide.md section 2,
46_divide.md section 3. -/
def Obligations.UnsignedDivisions : Prop :=
  ∀ (s : State) (R r w : Reg) (a b c : Nat), a = (s.readReg r).toNat → b = (s.readReg R).toNat →
    c = (lowHalf (s.readReg R)).toNat → r ≠ w →
    (b ≠ 0 → ∃ (t : State) (q m : Word), exec (.divu R r w) s = .next t ∧ UnsignedResults a b q m t ∧
      t.readReg r = written r q ∧ t.readReg w = written w m ∧ DivideFrame [r, w] 4 s t) ∧
    (b ≠ 0 → ∃ (t : State) (q m : Word), exec (.divqu R r w) s = .next t ∧ UnsignedResults a b q m t ∧
      t.readReg r = written r q ∧ t.readReg w = written w m ∧ DivideFrame [r, w] 4 s t) ∧
    (c ≠ 0 → ∃ (t : State) (q m : Word), exec (.divhu R r w) s = .next t ∧ UnsignedResults a c q m t ∧
      t.readReg r = written r q ∧ t.readReg w = written w m ∧ DivideFrame [r, w] 4 s t)

/-- A division by 0 completes with OV = 1, its results undefined, the rest unchanged. For all seven division instructions (reg2
not reg3 where both are named) a divisor of 0 completes with OV = 1; reg2, reg3, S and Z are undefined, which the statement
leaves open; CY, SAT, every other register, the system registers and memory are unchanged, and the PC moves on (U4, log 7).
From 46_divide.md section 1, 93_implementation_defined.md List U. -/
def Obligations.DivisionByZeroSetsOverflow : Prop :=
  ∀ (s : State) (R r w : Reg), r ≠ w →
    (s.readReg R = 0 → ∀ i ∈ [Instr.div R r w, .divq R r w, .divu R r w, .divqu R r w],
      ∃ t, exec i s = .next t ∧ t.flagOV = true ∧ DivideFrame [r, w] 4 s t) ∧
    (lowHalf (s.readReg R) = 0 → ∀ i ∈ [Instr.divh3 R r w, .divhu R r w],
      ∃ t, exec i s = .next t ∧ t.flagOV = true ∧ DivideFrame [r, w] 4 s t) ∧
    (lowHalf (s.readReg R) = 0 → ∃ t, exec (.divh R r) s = .next t ∧ t.flagOV = true ∧ DivideFrame [r] 2 s t)

/-- With reg2 = reg3 a division leaves the remainder in the register. For the six three-operand divisions with reg2 = reg3 the
instruction completes for every divisor; for a divisor that is not 0 the register receives the remainder; OV, S and Z are
undefined, which the statement leaves open; everything else is unchanged (U5, log 8). The sign of a signed remainder and the
remainder 0 of 80000000H / -1 are decision D18 of the spec (log 9). From 46_divide.md section 1,
93_implementation_defined.md List U, 92_eei_decisions.md section 1. -/
def Obligations.DivisionIntoOneRegister : Prop :=
  ∀ (s : State) (R r : Reg),
    (∀ i ∈ [Instr.div R r r, .divq R r r], ∃ t, exec i s = .next t ∧ DivideFrame [r] 4 s t ∧
      ((s.readReg R).toInt ≠ 0 → ∃ m : Word, m.toInt = (s.readReg r).toInt.tmod (s.readReg R).toInt ∧
        t.readReg r = written r m)) ∧
    (∀ i ∈ [Instr.divu R r r, .divqu R r r], ∃ t, exec i s = .next t ∧ DivideFrame [r] 4 s t ∧
      (s.readReg R ≠ 0 → ∃ m : Word, m.toNat = (s.readReg r).toNat % (s.readReg R).toNat ∧
        t.readReg r = written r m)) ∧
    (∃ t, exec (.divh3 R r r) s = .next t ∧ DivideFrame [r] 4 s t ∧
      (lowHalf (s.readReg R) ≠ 0 → ∃ m : Word, m.toInt = (s.readReg r).toInt.tmod (lowHalf (s.readReg R)).toInt ∧
        t.readReg r = written r m)) ∧
    (∃ t, exec (.divhu R r r) s = .next t ∧ DivideFrame [r] 4 s t ∧
      (lowHalf (s.readReg R) ≠ 0 → ∃ m : Word, m.toNat = (s.readReg r).toNat % (lowHalf (s.readReg R)).toNat ∧
        t.readReg r = written r m))

/-- Bcond, JARL, JMP and JR go to their target and change nothing else. Bcond completes at its own address plus the
sign-extended displacement when the condition holds and behind itself otherwise; JR and JARL (disp22, disp32) at their own
address plus the displacement, JMP at reg1 or reg1 plus disp32, every target through pcmask; JARL leaves the address after
itself in its register (the plain 32-bit sum, log 37; r0 discards it); no other register, flag, system register or byte of
memory changes. That the sum of Bcond starts from its own address is general knowledge in the spec (log 21). From
47_branch.md section 1, 47_branch.md section 2, 00_scope.md section 4, 93_implementation_defined.md List G. -/
def Obligations.BranchesAndJumps : Prop :=
  ∀ (s : State) (R : Reg),
    (∀ (cc : Cond) (d : BitVec 8), ∃ t, exec (.bcond cc d) s = .next t ∧ Frame [] [] s t ∧
      t.pc = pcmask (s.pc + (if s.cond cc then BitVec.ofInt 32 (2 * d.toInt) else 2))) ∧
    (∀ d : BitVec 21, ∃ t, exec (.jrDisp22 d) s = .next t ∧ Frame [] [] s t ∧
      t.pc = pcmask (s.pc + BitVec.ofInt 32 (2 * d.toInt))) ∧
    (∀ d : BitVec 31, ∃ t, exec (.jrDisp32 d) s = .next t ∧ Frame [] [] s t ∧
      t.pc = pcmask (s.pc + BitVec.ofNat 32 (2 * d.toNat))) ∧
    (∀ d : BitVec 21, ∃ t, exec (.jarlDisp22 d R) s = .next t ∧ Frame [R] [] s t ∧
      t.readReg R = written R (s.pc + 4) ∧ t.pc = pcmask (s.pc + BitVec.ofInt 32 (2 * d.toInt))) ∧
    (∀ d : BitVec 31, ∃ t, exec (.jarlDisp32 d R) s = .next t ∧ Frame [R] [] s t ∧
      t.readReg R = written R (s.pc + 6) ∧ t.pc = pcmask (s.pc + BitVec.ofNat 32 (2 * d.toNat))) ∧
    (∃ t, exec (.jmp R) s = .next t ∧ Frame [] [] s t ∧ t.pc = pcmask (s.readReg R)) ∧
    (∀ d : BitVec 31, ∃ t, exec (.jmpDisp32 d R) s = .next t ∧ Frame [] [] s t ∧
      t.pc = pcmask (s.readReg R + BitVec.ofNat 32 (2 * d.toNat)))

/-- SET1, NOT1, CLR1 and TST1 test the bit, change it as they say and leave the other seven. When the access is permitted each
form completes: Z says that the bit was 0, SET1 sets it, NOT1 inverts it, CLR1 clears it, TST1 leaves memory as it was; the
other seven bits of the byte, every other byte, CY, OV, S, SAT and every register are unchanged. Where the platform answers
at the address, the byte is read from it and written back to it (D4, logs 3, 43). With an error that the platform reports
for the read or the write (R122) the instruction ends instead with the exception of the error at its own address, with Z,
registers and memory as before (logs 19, 41, 43). Form (1) takes reg1 plus the sign-extended disp16 and the field bit#3,
form (2) reg1 and the low three bits of reg2; reg1 = r3 makes the access sp-relative. From 48_bit_manipulation.md section 1,
48_bit_manipulation.md section 2, 20_memory.md section 5, 60_exceptions.md section 5. -/
def Obligations.BitInstructions : Prop :=
  ∀ (s : State) (R r : Reg) (b : BitVec 3) (d : Half) (a : Word) (k : Nat),
    (a = s.readReg R + BitVec.ofInt 32 d.toInt → k = b.toNat →
      BitGives (.set1 b d R) s a k (decide (R = 3)) (fun _ => true) ∧
      BitGives (.not1 b d R) s a k (decide (R = 3)) (fun x => !x) ∧
      BitGives (.clr1 b d R) s a k (decide (R = 3)) (fun _ => false) ∧
      TestGives (.tst1 b d R) s a k (decide (R = 3))) ∧
    (a = s.readReg R → k = (s.readReg r).toNat % 8 →
      BitGives (.set1Reg r R) s a k (decide (R = 3)) (fun _ => true) ∧
      BitGives (.not1Reg r R) s a k (decide (R = 3)) (fun x => !x) ∧
      BitGives (.clr1Reg r R) s a k (decide (R = 3)) (fun _ => false) ∧
      TestGives (.tst1Reg r R) s a k (decide (R = 3)))

/-- PREPARE stores the listed registers downwards and moves sp and ep. When every store is permitted, all five forms complete:
register j of the list in ascending order stands at sp - 4(j+1) with its two low bits masked, every other byte is unchanged,
sp is lower by 4 for each listed register and by 4 imm5, ep receives nothing, the new sp, the sign-extended imm16, imm16
times 65536, or imm32; every other register, the PSW and the system registers are unchanged. A store at an address where the
platform answers goes to it instead, in the order of the list (D4, logs 3, 43); each store has no error reported (one with
an error: StackViolationStopsMidway). From 49_special.md section 6, 49_special.md section 1. -/
def Obligations.PrepareBuildsFrame : Prop :=
  ∀ (s : State) (l : RegList) (i : BitVec 5),
    PrepareGives (.prepare l i) s l i none 4 ∧
    PrepareGives (.prepareSp l i) s l i
      (some (s.readReg 3 - BitVec.ofNat 32 (4 * (ascending l).length) - BitVec.ofNat 32 (4 * i.toNat))) 4 ∧
    (∀ m : Half, PrepareGives (.prepareImm16 l i m) s l i (some (BitVec.ofInt 32 m.toInt)) 6) ∧
    (∀ m : Half, PrepareGives (.prepareImm16Hi l i m) s l i (some (BitVec.ofNat 32 (65536 * m.toNat))) 6) ∧
    (∀ m : Word, PrepareGives (.prepareImm32 l i m) s l i (some m) 8)

/-- DISPOSE loads the listed registers upwards and moves sp. When every load is permitted both forms complete: register j of the
list in descending order receives the word at sp + 4 imm5 + 4j with its two low bits masked, sp is higher by 4 imm5 and by 4
for each listed register, the form with [reg1] continues at pcmask of reg1 as it is after the loads; every other register,
the PSW, the system registers and memory are unchanged. A load at an address where the platform answers takes its answer, in
the order of the list (D4, logs 3, 43); each load has no error reported (one with an error: StackViolationStopsMidway). From
49_special.md section 6, 49_special.md section 1. -/
def Obligations.DisposeRemovesFrame : Prop :=
  ∀ (s : State) (i : BitVec 5) (l : RegList),
    (∀ j : Nat, j < (descending l).length → Permitted s (popAddr s i j) 4 .pop true ∧ PopAccepted s i j) →
    (∃ t, exec (.dispose i l) s = .next t ∧ DisposeGives i l s t ∧ Falls 4 s t) ∧
    (∀ R : Reg, ∃ t, exec (.disposeJmp i l R) s = .next t ∧ DisposeGives i l s t ∧ t.pc = pcmask (t.readReg R))

/-- A violation or an access error in PREPARE or DISPOSE enters its exception with the accesses before it done and sp unchanged.
When access j is the first that violates the protection or for which the platform reports an error: the accesses before it
are done (for DISPOSE their registers are loaded), nothing else of the instruction is, sp and ep and every other register
are unchanged, and a violation enters MDP with VMADR the address of that access and VMECR = 18H (PREPARE) or 14H (DISPOSE),
an error its exception, SYSERR or MEP, at the address of the instruction. The platform has seen those accesses before it
that it answers and, with an error, that access too, and no other (logs 3, 43). That an error of the platform leaves the
accesses before it done, as a violation does by R148, and that the answer tells the exception, is log 41; that the entry
ends a lag of PSW.IMP log 19. From 20_memory.md section 7, 20_memory.md section 5, 49_special.md section 6, 60_exceptions.md
section 5, 60_exceptions.md section 8, 70_reset_and_hazards.md section 3. -/
def Obligations.StackViolationStopsMidway : Prop :=
  ∀ (s : State) (i : BitVec 5) (l : RegList) (j : Nat), j < (ascending l).length →
    ((∀ j', j' < j → Permitted s (pushAddr s j') 4 .push true ∧ PushAccepted s l j') →
      ∀ (m : Half) (v : Word), ∀ p ∈ [Instr.prepare l i, .prepareSp l i, .prepareImm16 l i m, .prepareImm16Hi l i m,
        .prepareImm32 l i v],
      (s.violates (pushAccess (pushAddr s j)) = true → ∃ t, exec p s = .next t ∧ Pushed l j s t ∧ RegsExcept [] s t ∧
        EntersFe 0x431 s.pc (s.sys.ehBase + 0x30) false true (violationRecorded s (pushAddr s j) 0x18)
          (pushesDone s l j) t ∧
        ((∀ j', j' < j → Plain s (pushAddr s j') 4) → MachineSame s t ∧ t.events = s.events)) ∧
      (∀ e, Permitted s (pushAddr s j) 4 .push true → (pushesDone s l j).busError (pushAddr s j) 4 = some e →
        ∃ t, exec p s = .next t ∧ Pushed l j s t ∧ RegsExcept [] s t ∧
        EntersFe (errorCode e) s.pc (s.sys.ehBase + 0x30) false false s.sys (pushesDone s l (j + 1)) t ∧
        OnlyAsked (pushesDone s l j) (pushesDone s l (j + 1)))) ∧
    ((∀ j', j' < j → Permitted s (popAddr s i j') 4 .pop true ∧ PopAccepted s i j') →
      ∀ R : Reg, ∀ p ∈ [Instr.dispose i l, .disposeJmp i l R],
      (s.violates (popAccess (popAddr s i j)) = true → ∃ t, exec p s = .next t ∧ Popped i l j s t ∧
        RegsExcept ((descending l).take j) s t ∧ MemSame s t ∧
        EntersFe 0x431 s.pc (s.sys.ehBase + 0x30) false true (violationRecorded s (popAddr s i j) 0x14)
          (popsDone s i j) t ∧
        ((∀ j', j' < j → Plain s (popAddr s i j') 4) → MachineSame s t ∧ t.events = s.events)) ∧
      (∀ e, Permitted s (popAddr s i j) 4 .pop true → (popsDone s i j).busError (popAddr s i j) 4 = some e →
        ∃ t, exec p s = .next t ∧ Popped i l j s t ∧ RegsExcept ((descending l).take j) s t ∧ MemSame s t ∧
        EntersFe (errorCode e) s.pc (s.sys.ehBase + 0x30) false false s.sys (popsDone s i (j + 1)) t ∧
        OnlyAsked s (popsDone s i (j + 1))))

/-- Which registers a register list names, where the opcode holds it, and the order of transfer. Bits 31-21 and 0 of list12
select r24, r25, r26, r27, r20, r21, r22, r23, r28, r29, r31 and r30; the opcode holds bits 31-21 in hw2[15:5] and bit 0 in
hw1[0]; PREPARE takes the listed registers in ascending, DISPOSE in descending order. (The model holds list12 bits 31-21 as
bits 11-1 of a 12-bit number.) Formalises R452. -/
def Obligations.RegisterListNamesRegisters : Prop :=
  (∀ (l : RegList) (r : Reg), r ∈ ascending l ↔
    (r = 24 ∧ l.getLsbD 11 = true) ∨ (r = 25 ∧ l.getLsbD 10 = true) ∨ (r = 26 ∧ l.getLsbD 9 = true) ∨
    (r = 27 ∧ l.getLsbD 8 = true) ∨ (r = 20 ∧ l.getLsbD 7 = true) ∨ (r = 21 ∧ l.getLsbD 6 = true) ∨
    (r = 22 ∧ l.getLsbD 5 = true) ∨ (r = 23 ∧ l.getLsbD 4 = true) ∨ (r = 28 ∧ l.getLsbD 3 = true) ∨
    (r = 29 ∧ l.getLsbD 2 = true) ∨ (r = 31 ∧ l.getLsbD 1 = true) ∨ (r = 30 ∧ l.getLsbD 0 = true)) ∧
  (∀ l : RegList, (ascending l).Pairwise (fun a b => a.toNat < b.toNat) ∧ descending l = (ascending l).reverse) ∧
  ∀ h1 h2 : Half, (∀ k : Nat, k < 11 → (fList h1 h2).getLsbD (k + 1) = h2.getLsbD (k + 5)) ∧
    (fList h1 h2).getLsbD 0 = h1.getLsbD 0

/-- FETRAP, TRAP, RIE and SYSCALL enter their exception. FETRAP v is entered at the FE level with code 30H + v, return PC pc +
2, at +30H; RIE (both forms) with code 130H, return PC pc, at +30H; TRAP v at the EI level with code 40H + v, return PC pc +
4, at +40H for v below 16 and +50H above; SYSCALL v with code 8000H + v, return PC pc + 4, at SCBP plus the word of table
entry v, or of entry 0 when v is above SCCFG.SIZE, whatever the protection says; registers and memory are unchanged. Where
the platform answers at the table address the word is its answer (D4, logs 3, 43); that an error that it reports for the
table read is entered in place of the system call is the choice of the model (R122, log 41). That SIZE is bits 7-0 of SCCFG
is general knowledge in the spec (log 21); that an entry ends a lag of PSW.IMP is the choice of the model (log 19). From
49_special.md section 2, 60_exceptions.md section 4, 60_exceptions.md section 5, 60_exceptions.md section 6, 10_state.md
section 4, 93_implementation_defined.md List G, 20_memory.md section 5, 70_reset_and_hazards.md section 3. -/
def Obligations.SoftwareExceptions : Prop :=
  ∀ s : State,
    (∀ v : BitVec 4, ∃ t, exec (.fetrap v) s = .next t ∧ RegsExcept [] s t ∧ MemSame s t ∧
      EntersFe (0x30 + BitVec.ofNat 32 v.toNat) (s.pc + 2) (s.sys.ehBase + 0x30) false false s.sys s t) ∧
    (∀ v : BitVec 5, ∃ t, exec (.trap v) s = .next t ∧ RegsExcept [] s t ∧ MemSame s t ∧
      EntersEi (0x40 + BitVec.ofNat 32 v.toNat) (s.pc + 4)
        (s.sys.ehBase + (if v.toNat < 16 then 0x40 else 0x50)) false s t) ∧
    (∃ t, exec .rie s = .next t ∧ RegsExcept [] s t ∧ MemSame s t ∧
      EntersFe 0x130 s.pc (s.sys.ehBase + 0x30) false false s.sys s t) ∧
    (∀ (i : BitVec 5) (j : BitVec 4), ∃ t, exec (.rieImm i j) s = .next t ∧ RegsExcept [] s t ∧ MemSame s t ∧
      EntersFe 0x130 s.pc (s.sys.ehBase + 0x30) false false s.sys s t) ∧
    (∀ (v : BitVec 8) (a : Word),
      a = s.sys.scbp + BitVec.ofNat 32 (if v.toNat ≤ s.sys.sccfg.toNat % 256 then 4 * v.toNat else 0) →
      (Plain s a 4 → ∃ t, exec (.syscall v) s = .next t ∧ RegsExcept [] s t ∧ MemSame s t ∧
        EntersEi (0x8000 + BitVec.ofNat 32 v.toNat) (s.pc + 4) (s.sys.scbp + wordAt s a) false s t) ∧
      (s.busError a 4 = none → ∃ t, exec (.syscall v) s = .next t ∧ RegsExcept [] s t ∧ MemSame s t ∧
        OnlyAsked s (s.afterRead a 4) ∧
        EntersEi (0x8000 + BitVec.ofNat 32 v.toNat) (s.pc + 4) (s.sys.scbp + wordOf (s.busByte a 4)) false
          (s.afterRead a 4) t) ∧
      (∀ e, s.busError a 4 = some e → ∃ t, exec (.syscall v) s = .next t ∧ Aborted e s (s.afterRead a 4) t))

/-- EIRET, FERET, CTRET and RETI restore the saved PC and PSW and notify the end of the handler. EIRET takes EIPC and EIPSW,
FERET FEPC and FEPSW, CTRET CTPC and CTPSW, RETI FEPC and FEPSW when EP = 0 and NP = 1 and EIPC and EIPSW otherwise (in
every case: the choice of the model, U12, log 38); bits 7-0 and 11-9 are copied, IMP and DMP when MPE = 1, NPV when AUE = 1
too, every other PSW bit is 0, whatever NPV was, and the new IMP is in force at once; all but CTRET notify the interrupt
controller when EP was 0; registers, memory and system registers are unchanged. From 49_special.md section 1, 49_special.md
section 3, 60_exceptions.md section 7, 93_implementation_defined.md List U. -/
def Obligations.ReturnsRestoreContext : Prop :=
  ∀ s : State,
    (∃ t, exec .eiret s = .next t ∧ Returns s.sys.eipc s.sys.eipsw (!s.pswEP) s t) ∧
    (∃ t, exec .feret s = .next t ∧ Returns s.sys.fepc s.sys.fepsw (!s.pswEP) s t) ∧
    (∃ t, exec .ctret s = .next t ∧ Returns s.sys.ctpc s.sys.ctpsw false s t) ∧
    (∃ t, exec .reti s = .next t ∧
      Returns (if s.pswEP = false ∧ s.pswNP = true then s.sys.fepc else s.sys.eipc)
        (if s.pswEP = false ∧ s.pswNP = true then s.sys.fepsw else s.sys.eipsw) (!s.pswEP) s t)

/-- DI, EI, NOP, SYNCE, SYNCM, SYNCP and HALT. DI sets and EI clears PSW.ID and nothing else, NPV = 1 or not; NOP, SYNCE, SYNCM
and SYNCP only move the PC by 2; HALT moves it by 4 and enters HALT mode, with no register, PSW bit or byte of memory
changed. From 49_special.md section 4, 49_special.md section 7, 20_memory.md section 6. -/
def Obligations.InterruptControlAndWaiting : Prop :=
  ∀ s : State,
    (∃ t, exec .di s = .next t ∧ t.pswID = true ∧ Frame [] [5] s t ∧ Falls 4 s t) ∧
    (∃ t, exec .ei s = .next t ∧ t.pswID = false ∧ Frame [] [5] s t ∧ Falls 4 s t) ∧
    (∀ i ∈ [Instr.nop, .synce, .syncm, .syncp], ∃ t, exec i s = .next t ∧ Frame [] [] s t ∧ Falls 2 s t) ∧
    (∃ t, exec .halt s = .next t ∧ t.halted = true ∧ Falls 4 s t ∧ RegsExcept [] s t ∧ PswExcept [] s t ∧ MemSame s t ∧
      t.sys = s.sys ∧ t.free = s.free ∧ t.inputs = s.inputs ∧ t.answers = s.answers ∧ t.events = s.events ∧ t.impInForce = s.impInForce)

/-- LDSR in the T state writes the named system register by its own rule and nothing else. With NPV = 0, LDSR to a number that
names a register other than PSW, MPM, MPC, SW_CTL completes with the bits of the value that the register takes (ECR, DIR,
EH_CFG, EH_RESET, EH_BASE keep their value) and no other system register, general register, flag or byte of memory changed.
That bits software must write as 0 are stored as 0 and that an odd EIPC, FEPC, CTPC is stored are the model's choices (logs
12, 13, 17, 18), so is that the debug registers are plain storage (log 15) and that BSEL stores all 32 bits (log 11); the
layout of SW_CFG and SW_BASE is general knowledge in the spec (log 31). A reserved number writes nothing (log 10), and in a
product without the protection function a register of its group, MPM and MPC too, keeps its value (decision D1 of the spec,
log 33). From 49_special.md section 4, 10_state.md section 3, 10_state.md section 4, 10_state.md section 5, 10_state.md
section 7, 92_eei_decisions.md section 1, 93_implementation_defined.md List U. -/
def Obligations.LdsrWritesRegister : Prop :=
  ∀ (s : State) (r : Reg) (n : RegId), s.pswNPV = false →
    (∀ q : SysReg, resolve s.sys.bsel n = some q → q ∉ [SysReg.psw, .mpm, .mpc, .swCtl] →
      q.protectionGroup = false ∨ s.product.protectionPresent = true →
      ∃ t, exec (.ldsr r n) s = .next t ∧ t.readSys q = ldsrValue q (s.readReg r) (s.readSys q) ∧
        SysExcept [q] s t ∧ LdsrFrame s t ∧ EnvSame s t) ∧
    (∀ q : SysReg, resolve s.sys.bsel n = some q → q.protectionGroup = true → s.product.protectionPresent = false →
      ∃ t, exec (.ldsr r n) s = .next t ∧ SysExcept [] s t ∧ LdsrFrame s t ∧ EnvSame s t) ∧
    (resolve s.sys.bsel n = none →
      ∃ t, exec (.ldsr r n) s = .next t ∧ SysExcept [] s t ∧ LdsrFrame s t ∧ EnvSame s t)

/-- LDSR to the PSW, in the T state and in the NT state. With NPV = 0 bits 7-0 take the value, IMP and DMP take it when MPE = 1
and NPV when AUE = 1 too and are 0 otherwise, bits 11-9 keep their value (log 14), every other bit is 0 (log 13); a change
of IMP is in force at once when imp_delay is 0, and otherwise the IMP in force before it stays in force for imp_delay more
instructions (U13, log 19), while an LDSR that does not change IMP leaves the lag as it was. With NPV = 1 bits 5-0 take the
value and bits 31-6 and the lag stay, with no violation recorded. No other register and no memory changes. From 10_state.md
section 4, 60_exceptions.md section 9, 49_special.md section 4, 70_reset_and_hazards.md section 3,
93_implementation_defined.md List U. -/
def Obligations.LdsrWritesPsw : Prop :=
  ∀ (s : State) (r : Reg) (n : RegId) (v : Word), v = s.readReg r → resolve s.sys.bsel n = some .psw →
    (s.pswNPV = false → ∃ t, exec (.ldsr r n) s = .next t ∧
      (∀ k : Nat, k < 8 → t.psw.getLsbD k = v.getLsbD k) ∧ t.pswIMP = (s.mpe && v.getLsbD 16) ∧
      t.pswDMP = (s.mpe && v.getLsbD 17) ∧ t.pswNPV = (s.mpe && s.aue && v.getLsbD 18) ∧
      (∀ k : Nat, 9 ≤ k → k ≤ 11 → t.psw.getLsbD k = s.psw.getLsbD k) ∧
      (∀ k : Nat, k = 8 ∨ (12 ≤ k ∧ k ≤ 15) ∨ 19 ≤ k → t.psw.getLsbD k = false) ∧
      (t.pswIMP = s.pswIMP → t.impLag = s.impLag ∧ t.impOld = s.impOld) ∧
      (t.pswIMP ≠ s.pswIMP → t.impLag = s.product.impDelay ∧ t.impOld = s.impInForce ∧
        t.impInForce = if s.product.impDelay = 0 then t.pswIMP else s.impInForce) ∧
      (s.product.impDelay = 0 → s.impLag = 0 → t.impInForce = t.pswIMP) ∧
      SysExcept [.psw] s t ∧ LdsrFrame s t) ∧
    (s.pswNPV = true → ∃ t, exec (.ldsr r n) s = .next t ∧
      (∀ k : Nat, k < 6 → t.psw.getLsbD k = v.getLsbD k) ∧ (∀ k : Nat, 6 ≤ k → t.psw.getLsbD k = s.psw.getLsbD k) ∧
      EnvSame s t ∧ SysExcept [.psw] s t ∧ LdsrFrame s t)

/-- LDSR to MPM, MPC and SW_CTL. With NPV = 0: MPM takes bits 1-0 (log 16) and clearing MPE clears IMP, DMP, NPV, clearing AUE
clears NPV, at once and ending a lag of IMP (log 19), every other PSW bit unchanged; MPC with ALDS = 1 clears E of every
area, nothing else of them, and reads 0 again, its bits 31-1 too (log 18); SW_CTL with SET = 1 copies SW_CFG bit 0 to EH_CFG
and SW_BASE to EH_BASE (decision D10 of the spec, log 31) and reads 0 again (its bits 31-1: log 18); no other register and
no memory changes. That AUE is bit 1 of MPM is general knowledge in the spec (log 21). From 10_state.md section 5,
10_state.md section 7, 70_reset_and_hazards.md section 3, 92_eei_decisions.md section 1, 93_implementation_defined.md List
G. -/
def Obligations.LdsrWritesControlRegisters : Prop :=
  ∀ (s : State) (r : Reg) (n : RegId) (v : Word), v = s.readReg r → Inv s → s.pswNPV = false →
    (resolve s.sys.bsel n = some .mpm → s.product.protectionPresent = true → ∃ t, exec (.ldsr r n) s = .next t ∧
      t.readSys .mpm = v &&& 3 ∧ t.pswIMP = (v.getLsbD 0 && s.pswIMP) ∧ t.pswDMP = (v.getLsbD 0 && s.pswDMP) ∧
      t.pswNPV = (v.getLsbD 0 && v.getLsbD 1 && s.pswNPV) ∧ PswExcept [16, 17, 18] s t ∧
      t.impLag = (if v.getLsbD 0 then s.impLag else 0) ∧ t.impOld = s.impOld ∧
      SysExcept [.psw, .mpm] s t ∧ LdsrFrame s t) ∧
    (resolve s.sys.bsel n = some .mpc → s.product.protectionPresent = true → ∃ t, exec (.ldsr r n) s = .next t ∧
      (∀ (a : Fin 4) (k : Nat), (t.readSys (.paL a)).getLsbD k =
        ((s.readSys (.paL a)).getLsbD k && !(v.getLsbD 0 && decide (k = 0)))) ∧ t.readSys .mpc = 0 ∧
      SysExcept [.paL 0, .paL 1, .paL 2, .paL 3] s t ∧ LdsrFrame s t ∧ EnvSame s t) ∧
    (resolve s.sys.bsel n = some .swCtl → ∃ t, exec (.ldsr r n) s = .next t ∧
      t.readSys .ehCfg = (if v.getLsbD 0 then s.readSys .swCfg else s.readSys .ehCfg) ∧
      t.readSys .ehBase = (if v.getLsbD 0 then baseMask (s.readSys .swBase) else s.readSys .ehBase) ∧
      t.readSys .swCtl = 0 ∧ SysExcept [.ehCfg, .ehBase] s t ∧ LdsrFrame s t ∧ EnvSame s t)

/-- LDSR in the NT state writes CTBP only, and any other number but the PSW is blocked and counted. With NPV = 1, LDSR to CTBP
writes it; LDSR to any number that names neither CTBP nor the PSW, a reserved number too, completes without exception,
writes nothing, counts one violation in VSECR up to 255, and when VSECR was 0 records TID in VSTID and the PC in VSADR; no
other register, flag or byte of memory changes. That an LDSR to a number which LDSR cannot write anyway (ECR, DIR, EH_CFG,
EH_RESET, EH_BASE) is counted too is read from the rule (log 24). From 60_exceptions.md section 9, 10_state.md section 4,
10_state.md section 7. -/
def Obligations.LdsrBlockedAndRecorded : Prop :=
  ∀ (s : State) (r : Reg) (n : RegId), s.pswNPV = true →
    (resolve s.sys.bsel n = some .ctbp → ∃ t, exec (.ldsr r n) s = .next t ∧
      t.readSys .ctbp = pcmask (s.readReg r) ∧ SysExcept [.ctbp] s t ∧ LdsrFrame s t ∧ EnvSame s t) ∧
    (resolve s.sys.bsel n ≠ some .ctbp → resolve s.sys.bsel n ≠ some .psw → ∃ t, exec (.ldsr r n) s = .next t ∧
      t.readSys .vsecr = BitVec.ofNat 32 (min (s.sys.vsecr.toNat % 256 + 1) 255) ∧
      t.readSys .vstid = (if s.sys.vsecr = 0 then s.sys.tid else s.sys.vstid) ∧
      t.readSys .vsadr = (if s.sys.vsecr = 0 then s.pc else s.sys.vsadr) ∧
      SysExcept [.vsecr, .vstid, .vsadr] s t ∧ LdsrFrame s t ∧ EnvSame s t)

/-- STSR copies the named system register to a general register, never restricted. Whatever NPV is, STSR of a number that names
a register completes with its content in the destination (r0 discards it) and nothing else changed; for DIR and for a
reserved number (U2, U9, logs 10, 15) it completes too, the value is left open, and no other register, flag or byte of
memory changes. The content of each register is what the state holds for it: PSW the PSW, ECR its word FECC : EICC, MPM 0 in
a product without the protection function (decision D1 of the spec, log 33). From 49_special.md section 4, 10_state.md
section 3, 10_state.md section 4, 10_state.md section 5, 10_state.md section 7, 92_eei_decisions.md section 1,
93_implementation_defined.md List U. -/
def Obligations.StsrReadsRegister : Prop :=
  ∀ (s : State) (r : Reg) (n : RegId),
    (s.readSys .eipc = s.sys.eipc ∧ s.readSys .eipsw = s.sys.eipsw ∧ s.readSys .fepc = s.sys.fepc ∧
      s.readSys .fepsw = s.sys.fepsw ∧ s.readSys .ecr = s.sys.ecr ∧ s.readSys .psw = s.psw ∧
      s.readSys .sccfg = s.sys.sccfg ∧ s.readSys .scbp = s.sys.scbp ∧ s.readSys .eiic = s.sys.eiic ∧
      s.readSys .feic = s.sys.feic ∧ s.readSys .dbic = s.sys.dbic ∧ s.readSys .ctpc = s.sys.ctpc ∧
      s.readSys .ctpsw = s.sys.ctpsw ∧ s.readSys .dbpc = s.sys.dbpc ∧ s.readSys .dbpsw = s.sys.dbpsw ∧
      s.readSys .ctbp = s.sys.ctbp ∧ (∀ k : Fin 6, s.readSys (.dbg k) = s.sys.dbg[k]) ∧
      s.readSys .eiwr = s.sys.eiwr ∧ s.readSys .fewr = s.sys.fewr ∧ s.readSys .dbwr = s.sys.dbwr ∧
      s.readSys .bsel = s.sys.bsel ∧ s.readSys .swCtl = s.sys.swCtl ∧ s.readSys .swCfg = s.sys.swCfg ∧
      s.readSys .swBase = s.sys.swBase ∧ s.readSys .ehCfg = s.sys.ehCfg ∧ s.readSys .ehReset = s.sys.ehReset ∧
      s.readSys .ehBase = s.sys.ehBase ∧
      s.readSys .mpm = (if s.product.protectionPresent then s.sys.mpm else 0) ∧ s.readSys .mpc = s.sys.mpc ∧
      s.readSys .tid = s.sys.tid ∧ (∀ k : Fin 4, s.readSys (.paL k) = s.sys.paL[k]) ∧
      (∀ k : Fin 4, s.readSys (.paU k) = s.sys.paU[k]) ∧ s.readSys .vmecr = s.sys.vmecr ∧
      s.readSys .vmtid = s.sys.vmtid ∧ s.readSys .vmadr = s.sys.vmadr ∧ s.readSys .vsecr = s.sys.vsecr ∧
      s.readSys .vstid = s.sys.vstid ∧ s.readSys .vsadr = s.sys.vsadr) ∧
    (∀ q : SysReg, resolve s.sys.bsel n = some q → q ≠ .dir →
      ∃ t, exec (.stsr n r) s = .next t ∧ SetsReg r (s.readSys q) 4 s t) ∧
    (resolve s.sys.bsel n = none ∨ resolve s.sys.bsel n = some .dir →
      ∃ t, exec (.stsr n r) s = .next t ∧ RegsExcept [r] s t ∧ PswExcept [] s t ∧ MemSame s t ∧ t.sys = s.sys ∧
        EnvSame s t ∧ Falls 4 s t)

/-- Which register each number names in each bank. The numbers 0-27 of the main bank, EHSW0, EHSW1, the violation, setting,
software paging and user 0 banks name the registers of their tables and no others, and the numbers 28-31 name EIWR, FEWR,
DBWR and BSEL whatever BSEL holds. From 10_state.md section 3, 10_state.md section 4, 10_state.md section 5, 10_state.md
section 6, 10_state.md section 7. -/
def Obligations.BankTables : Prop :=
  ((List.range 28).map fun n => resolve 0 (BitVec.ofNat 5 n)) =
      [some .eipc, some .eipsw, some .fepc, some .fepsw, some .ecr, some .psw, none, none, none, none, none, some .sccfg,
       some .scbp, some .eiic, some .feic, some .dbic, some .ctpc, some .ctpsw, some .dbpc, some .dbpsw, some .ctbp,
       some .dir, some (.dbg 0), some (.dbg 1), some (.dbg 2), some (.dbg 3), some (.dbg 4), some (.dbg 5)] ∧
    ((List.range 28).map fun n => resolve 0x10 (BitVec.ofNat 5 n)) =
      [some .swCtl, some .swCfg, none, some .swBase] ++ List.replicate 24 none ∧
    ((List.range 28).map fun n => resolve 0x11 (BitVec.ofNat 5 n)) =
      [none, some .ehCfg, some .ehReset, some .ehBase] ++ List.replicate 24 none ∧
    ((List.range 28).map fun n => resolve 0x1000 (BitVec.ofNat 5 n)) =
      [some .vsecr, some .vstid, some .vsadr, none, some .vmecr, some .vmtid, some .vmadr] ++ List.replicate 21 none ∧
    ((List.range 28).map fun n => resolve 0x1001 (BitVec.ofNat 5 n)) =
      [some .mpm, some .mpc, some .tid, none, none, none, some (.paL 0), some (.paU 0), some (.paL 1), some (.paU 1),
       some (.paL 2), some (.paU 2), some (.paL 3), some (.paU 3)] ++ List.replicate 14 none ∧
    ((List.range 28).map fun n => resolve 0x1010 (BitVec.ofNat 5 n)) =
      [some .mpm, some .mpc, some .tid, some .vmecr, some .vmtid, some .vmadr, some (.paL 0), some (.paU 0),
       some (.paL 1), some (.paU 1), some (.paL 2), some (.paU 2), some (.paL 3), some (.paU 3)] ++
        List.replicate 14 none ∧
    (∀ b ∈ [0xFF00#32, 0xFFFF#32], ((List.range 28).map fun n => resolve b (BitVec.ofNat 5 n)) =
      List.replicate 5 none ++ [some .psw] ++ List.replicate 10 none ++ [some .ctpc, some .ctpsw, none, none, some .ctbp] ++
        List.replicate 7 none) ∧
    ∀ b : Word, resolve b 28 = some .eiwr ∧ resolve b 29 = some .fewr ∧ resolve b 30 = some .dbwr ∧
      resolve b 31 = some .bsel

/-- CALLT and SWITCH branch through their tables. When the table read is permitted: CALLT completes at CTBP plus the
zero-extended halfword at CTBP + 2 imm6, with pc + 2 in CTPC and the PSW in CTPSW, no other system register changed; SWITCH
completes at pc + 2 plus twice the sign-extended halfword at pc + 2 + 2 reg1; no general register, flag or byte of memory
changes. Where the platform answers at the table address the halfword is what MemRead gives and the platform is asked
besides (D4, logs 3, 43); with an error that it reports (R122) the instruction ends instead with the exception of the error
at its own address, no register and no memory written (logs 19, 41). The table entries are general knowledge in the spec
(log 21). From 49_special.md section 5, 93_implementation_defined.md List G, 20_memory.md section 5, 60_exceptions.md
section 5. -/
def Obligations.TableTransfers : Prop :=
  ∀ (s : State) (a : Word), Permitted s a 2 .table false →
    (∀ i : BitVec 6, a = s.sys.ctbp + BitVec.ofNat 32 (2 * i.toNat) →
      (Plain s a 2 → ∃ t, exec (.callt i) s = .next t ∧ t.pc = pcmask (s.sys.ctbp + uHalf (memBytes s a)) ∧
        t.sys = { s.sys with ctpc := pcmask (s.pc + 2), ctpsw := s.psw } ∧
        RegsExcept [] s t ∧ PswExcept [] s t ∧ MemSame s t ∧ t.free = s.free ∧ EnvSame s t) ∧
      (s.busError a 2 = none → ∃ t, exec (.callt i) s = .next t ∧
        t.pc = pcmask (s.sys.ctbp + uHalf (s.busByte a 2)) ∧
        t.sys = { s.sys with ctpc := pcmask (s.pc + 2), ctpsw := s.psw } ∧
        RegsExcept [] s t ∧ PswExcept [] s t ∧ MemSame s t ∧ t.free = s.free ∧ OnlyAsked s (s.afterRead a 2) ∧
        EnvSame (s.afterRead a 2) t) ∧
      (∀ e, s.busError a 2 = some e → ∃ t, exec (.callt i) s = .next t ∧ Aborted e s (s.afterRead a 2) t)) ∧
    (∀ R : Reg, a = s.pc + 2 + BitVec.ofNat 32 (2 * (s.readReg R).toNat) →
      (Plain s a 2 → ∃ t, exec (.switch R) s = .next t ∧
        t.pc = pcmask (s.pc + 2 + sHalf (memBytes s a) + sHalf (memBytes s a)) ∧ Frame [] [] s t) ∧
      (s.busError a 2 = none → ∃ t, exec (.switch R) s = .next t ∧
        t.pc = pcmask (s.pc + 2 + sHalf (s.busByte a 2) + sHalf (s.busByte a 2)) ∧ OnlyAsked s (s.afterRead a 2) ∧
        Frame [] [] (s.afterRead a 2) t) ∧
      (∀ e, s.busError a 2 = some e → ∃ t, exec (.switch R) s = .next t ∧ Aborted e s (s.afterRead a 2) t))

/-- CAXI compares, exchanges and returns the old word. When the access to the word at reg1 with its two low bits masked is
permitted, CAXI completes: the word becomes reg3 when it equals reg2 and is written back otherwise, reg3 receives the old
word, CY, OV, S, Z are those of reg2 minus the old word; every other byte, register and PSW bit is unchanged. Where the
platform answers at the address, the word is read from it and written back to it (D4, logs 3, 43); with an error that it
reports for the read or the write (R122) the instruction ends instead with the exception of the error at its own address,
with flags, registers and memory as before (logs 19, 41, 43). The operation is general knowledge in the spec (log 21). From
49_special.md section 7, 93_implementation_defined.md List G, 20_memory.md section 5, 60_exceptions.md section 5. -/
def Obligations.CompareAndExchange : Prop :=
  ∀ (s u : State) (R r w : Reg) (a token new : Word), a = s.readReg R &&& 0xFFFFFFFC → token = wordOf (s.busByte a 4) →
    new = (if s.readReg r = token then s.readReg w else token) → u = (s.afterRead a 4).busWrite a 4 new →
    Permitted s a 4 .modify (decide (R = 3)) →
    (Plain s a 4 → ∃ t, exec (.caxi R r w) s = .next t ∧ token = wordAt s a ∧ t.readReg w = written w token ∧
      DifferenceFlags (s.readReg r) token 0 t ∧ Falls 4 s t ∧ Stored a 4 new t ∧ StoreFrame [w] arithBits a 4 s t) ∧
    (s.busError a 4 = none → (s.afterRead a 4).busError a 4 = none → ∃ t, exec (.caxi R r w) s = .next t ∧
      t.readReg w = written w token ∧ DifferenceFlags (s.readReg r) token 0 t ∧ Falls 4 s t ∧
      OnlyStored a 4 s u ∧ Frame [w] arithBits u t) ∧
    (∀ e, s.busError a 4 = some e → ∃ t, exec (.caxi R r w) s = .next t ∧ Aborted e s (s.afterRead a 4) t) ∧
    (∀ e, s.busError a 4 = none → (s.afterRead a 4).busError a 4 = some e →
      ∃ t, exec (.caxi R r w) s = .next t ∧ Aborted e s u t)

/-- Only LDSR to the PSW and the returns clear SAT, and only they and the saturated operations set it. Over all instructions:
whenever an instruction that is neither a return nor an LDSR to the PSW completes, SAT stays 1 if it was 1; and if it was 0
it stays 0 unless the instruction is a saturated operation. From 43_saturated.md section 1, 10_state.md section 4. -/
def Obligations.SaturationIsCumulative : Prop :=
  ∀ (i : Instr) (s t : State), exec i s = .next t → isReturn i = false →
    (∀ (r : Reg) (n : RegId), i = .ldsr r n → resolve s.sys.bsel n ≠ some .psw) →
    (s.flagSAT = true → t.flagSAT = true) ∧ (isSaturated i = false → t.flagSAT = s.flagSAT)

/-- In the NT state only an exception or a return leaves it or changes a protected register. Over all instructions: with NPV =
1, an instruction that is neither a return nor a software exception either enters MDP or the exception of an access error
(after at most general registers, memory and the platform's record changed: PREPARE and DISPOSE; logs 19, 41), or leaves PSW
bits 31-6 (NPV among them) and every system register as they were, but for the unprotected CTBP, CTPC and CTPSW (written by
CALLT) and the violation record VSECR, VSTID, VSADR. (DIR reads as a free value, log 15.) From 60_exceptions.md section 9,
60_exceptions.md section 10, 10_state.md section 4. -/
def Obligations.UntrustedStateCannotLeave : Prop :=
  ∀ (i : Instr) (s t : State), s.pswNPV = true → isReturn i = false → isSoftwareException i = false →
    exec i s = .next t →
    (∃ (a v : Word) (u : State), OnlyAsked { s with gr := u.gr, mem := u.mem } u ∧
      EntersFe 0x431 s.pc (s.sys.ehBase + 0x30) false true (violationRecorded s a v) u t) ∨
    (∃ (e : AccessError) (u : State), OnlyAsked { s with gr := u.gr, mem := u.mem } u ∧
      EntersFe (errorCode e) s.pc (s.sys.ehBase + 0x30) false false s.sys u t) ∨
      ((∀ k : Nat, 6 ≤ k → t.psw.getLsbD k = s.psw.getLsbD k) ∧
        SysExcept [.psw, .ctbp, .ctpc, .ctpsw, .vsecr, .vstid, .vsadr, .dir] s t)

/-- While DMP = 1 a step changes only bytes of areas with write permission. Over all steps (instructions, exception entries,
interrupts, reset): from a state with PSW.DMP = 1, a byte of plain memory that reads differently after the step lies in a
protection area that was in force and had W = 1. From 20_memory.md section 7, 60_exceptions.md section 3. -/
def Obligations.MemoryChangesNeedWritePermission : Prop :=
  ∀ (s t : State) (a : Word), s.pswDMP = true → step s = .next t → t.read8 a ≠ s.read8 a →
    ∃ n : Fin 4, AreaCovers s n a.toNat a.toNat ∧ AreaGrants s n .w

/-- While DMP = 1 no instruction but SYSCALL learns anything of a byte without read permission. Over all instructions but
SYSCALL (which is exempt): with PSW.DMP = 1, let one byte of plain memory that lies in no area in force with R = 1 hold any
other value; the instruction then ends in the same state, register for register and byte for byte, but for that byte itself.
From 20_memory.md section 7. -/
def Obligations.UnreadableBytesDoNotInfluence : Prop :=
  ∀ (i : Instr) (s t : State) (b : Word) (x : Byte), s.pswDMP = true → (∀ v, i ≠ .syscall v) →
    (¬∃ n : Fin 4, AreaCovers s n b.toNat b.toNat ∧ AreaGrants s n .r) → exec i s = .next t →
    ∃ t', exec i (s.write8 b x) = .next t' ∧ t' = { t with mem := t'.mem } ∧ ∀ a : Word, a ≠ b → t'.read8 a = t.read8 a

/-- When protection is inactive every LDSR writes its register, nothing is counted and nothing violates. In every state of the
machine's form: with AUE = 0, NPV is 0, and every LDSR to a register that exists takes effect and is not counted: PSW, MPM,
MPC and SW_CTL by their rules, every other the bits it takes; with MPE = 0, NPV, DMP and IMP are 0, no fetch and no data
access violates; in a product without the protection function MPM reads 0, no fetch and no data access violates, an LDSR to
a register of the protection group leaves every system register as it was, and no LDSR is counted (decision D1 of the spec,
log 33). Which bits the registers take rests on the logs that LdsrWritesRegister and LdsrWritesControlRegisters name. From
60_exceptions.md section 9, 10_state.md section 4, 10_state.md section 5, 10_state.md section 7, 92_eei_decisions.md section
1. -/
def Obligations.ProtectionInactive : Prop :=
  ∀ s : State, Inv s →
    (s.aue = false → s.pswNPV = false ∧ ∀ (r : Reg) (n : RegId) (q : SysReg) (v : Word), v = s.readReg r →
      resolve s.sys.bsel n = some q → q.protectionGroup = false ∨ s.product.protectionPresent = true →
      ∃ t, exec (.ldsr r n) s = .next t ∧ LdsrFrame s t ∧
        (q ∉ [SysReg.psw, .mpm, .mpc, .swCtl] → t.readSys q = ldsrValue q v (s.readSys q) ∧ SysExcept [q] s t) ∧
        (q = .psw → (∀ k : Nat, k < 8 → t.psw.getLsbD k = v.getLsbD k) ∧ t.pswIMP = (s.mpe && v.getLsbD 16) ∧
          t.pswDMP = (s.mpe && v.getLsbD 17) ∧ SysExcept [.psw] s t) ∧
        (q = .mpm → t.readSys .mpm = v &&& 3 ∧ SysExcept [.psw, .mpm] s t) ∧
        (q = .mpc → (∀ a : Fin 4, (t.readSys (.paL a)).getLsbD 0 = ((s.readSys (.paL a)).getLsbD 0 && !v.getLsbD 0)) ∧
          SysExcept [.paL 0, .paL 1, .paL 2, .paL 3] s t) ∧
        (q = .swCtl → t.readSys .ehCfg = (if v.getLsbD 0 then s.readSys .swCfg else s.readSys .ehCfg) ∧
          t.readSys .ehBase = (if v.getLsbD 0 then baseMask (s.readSys .swBase) else s.readSys .ehBase) ∧
          SysExcept [.ehCfg, .ehBase] s t)) ∧
    (s.mpe = false → s.pswNPV = false ∧ s.pswDMP = false ∧ s.pswIMP = false ∧ s.fetchViolates = false ∧
      ∀ acc : Access, s.violates acc = false) ∧
    (s.product.protectionPresent = false → s.readSys .mpm = 0 ∧ s.fetchViolates = false ∧
      (∀ acc : Access, s.violates acc = false) ∧ ∀ (r : Reg) (n : RegId), ∃ t, exec (.ldsr r n) s = .next t ∧
        t.sys.vsecr = s.sys.vsecr ∧
        ∀ q : SysReg, resolve s.sys.bsel n = some q → q.protectionGroup = true → SysExcept [] s t ∧ LdsrFrame s t)

end
end

