-- ==== Sys2Proof/Laws/State.lean ====
section
/-! SUPPORT. One lemma per field and update of the state: what each named operation leaves as it was. -/

namespace Sys2Proof.Laws

open Sys2Proof.Machine

/-! ## writeReg -/

@[simp] theorem writeReg_pc (s : State) (r : Reg) (v : Word) : (s.writeReg r v).pc = s.pc := by
  unfold State.writeReg; split <;> rfl
@[simp] theorem writeReg_psw (s : State) (r : Reg) (v : Word) : (s.writeReg r v).psw = s.psw := by
  unfold State.writeReg; split <;> rfl
@[simp] theorem writeReg_sys (s : State) (r : Reg) (v : Word) : (s.writeReg r v).sys = s.sys := by
  unfold State.writeReg; split <;> rfl
@[simp] theorem writeReg_mem (s : State) (r : Reg) (v : Word) : (s.writeReg r v).mem = s.mem := by
  unfold State.writeReg; split <;> rfl
@[simp] theorem writeReg_halted (s : State) (r : Reg) (v : Word) : (s.writeReg r v).halted = s.halted := by
  unfold State.writeReg; split <;> rfl
@[simp] theorem writeReg_impOld (s : State) (r : Reg) (v : Word) : (s.writeReg r v).impOld = s.impOld := by
  unfold State.writeReg; split <;> rfl
@[simp] theorem writeReg_impLag (s : State) (r : Reg) (v : Word) : (s.writeReg r v).impLag = s.impLag := by
  unfold State.writeReg; split <;> rfl
@[simp] theorem writeReg_inputs (s : State) (r : Reg) (v : Word) : (s.writeReg r v).inputs = s.inputs := by
  unfold State.writeReg; split <;> rfl
@[simp] theorem writeReg_answers (s : State) (r : Reg) (v : Word) : (s.writeReg r v).answers = s.answers := by
  unfold State.writeReg; split <;> rfl
@[simp] theorem writeReg_events (s : State) (r : Reg) (v : Word) : (s.writeReg r v).events = s.events := by
  unfold State.writeReg; split <;> rfl
@[simp] theorem writeReg_free (s : State) (r : Reg) (v : Word) : (s.writeReg r v).free = s.free := by
  unfold State.writeReg; split <;> rfl
@[simp] theorem writeReg_product (s : State) (r : Reg) (v : Word) : (s.writeReg r v).product = s.product := by
  unfold State.writeReg; split <;> rfl
@[simp] theorem writeReg_read8 (s : State) (r : Reg) (v : Word) (x : Word) : (s.writeReg r v).read8 x = s.read8 x := by
  unfold State.writeReg; split <;> rfl

/-! ## setPc -/

@[simp] theorem setPc_gr (s : State) (v : Word) : (s.setPc v).gr = s.gr := rfl
@[simp] theorem setPc_psw (s : State) (v : Word) : (s.setPc v).psw = s.psw := rfl
@[simp] theorem setPc_sys (s : State) (v : Word) : (s.setPc v).sys = s.sys := rfl
@[simp] theorem setPc_mem (s : State) (v : Word) : (s.setPc v).mem = s.mem := rfl
@[simp] theorem setPc_halted (s : State) (v : Word) : (s.setPc v).halted = s.halted := rfl
@[simp] theorem setPc_impOld (s : State) (v : Word) : (s.setPc v).impOld = s.impOld := rfl
@[simp] theorem setPc_impLag (s : State) (v : Word) : (s.setPc v).impLag = s.impLag := rfl
@[simp] theorem setPc_inputs (s : State) (v : Word) : (s.setPc v).inputs = s.inputs := rfl
@[simp] theorem setPc_answers (s : State) (v : Word) : (s.setPc v).answers = s.answers := rfl
@[simp] theorem setPc_events (s : State) (v : Word) : (s.setPc v).events = s.events := rfl
@[simp] theorem setPc_free (s : State) (v : Word) : (s.setPc v).free = s.free := rfl
@[simp] theorem setPc_product (s : State) (v : Word) : (s.setPc v).product = s.product := rfl
@[simp] theorem setPc_readReg (s : State) (v : Word) (q : Reg) : (s.setPc v).readReg q = s.readReg q := rfl
@[simp] theorem setPc_read8 (s : State) (v : Word) (x : Word) : (s.setPc v).read8 x = s.read8 x := rfl

/-! ## advance -/

@[simp] theorem advance_gr (s : State) (n : Nat) : (s.advance n).gr = s.gr := rfl
@[simp] theorem advance_psw (s : State) (n : Nat) : (s.advance n).psw = s.psw := rfl
@[simp] theorem advance_sys (s : State) (n : Nat) : (s.advance n).sys = s.sys := rfl
@[simp] theorem advance_mem (s : State) (n : Nat) : (s.advance n).mem = s.mem := rfl
@[simp] theorem advance_halted (s : State) (n : Nat) : (s.advance n).halted = s.halted := rfl
@[simp] theorem advance_impOld (s : State) (n : Nat) : (s.advance n).impOld = s.impOld := rfl
@[simp] theorem advance_impLag (s : State) (n : Nat) : (s.advance n).impLag = s.impLag := rfl
@[simp] theorem advance_inputs (s : State) (n : Nat) : (s.advance n).inputs = s.inputs := rfl
@[simp] theorem advance_answers (s : State) (n : Nat) : (s.advance n).answers = s.answers := rfl
@[simp] theorem advance_events (s : State) (n : Nat) : (s.advance n).events = s.events := rfl
@[simp] theorem advance_free (s : State) (n : Nat) : (s.advance n).free = s.free := rfl
@[simp] theorem advance_product (s : State) (n : Nat) : (s.advance n).product = s.product := rfl
@[simp] theorem advance_readReg (s : State) (n : Nat) (q : Reg) : (s.advance n).readReg q = s.readReg q := rfl
@[simp] theorem advance_read8 (s : State) (n : Nat) (x : Word) : (s.advance n).read8 x = s.read8 x := rfl

/-! ## setPswBit -/

@[simp] theorem setPswBit_gr (s : State) (i : Nat) (b : Bool) : (s.setPswBit i b).gr = s.gr := rfl
@[simp] theorem setPswBit_pc (s : State) (i : Nat) (b : Bool) : (s.setPswBit i b).pc = s.pc := rfl
@[simp] theorem setPswBit_sys (s : State) (i : Nat) (b : Bool) : (s.setPswBit i b).sys = s.sys := rfl
@[simp] theorem setPswBit_mem (s : State) (i : Nat) (b : Bool) : (s.setPswBit i b).mem = s.mem := rfl
@[simp] theorem setPswBit_halted (s : State) (i : Nat) (b : Bool) : (s.setPswBit i b).halted = s.halted := rfl
@[simp] theorem setPswBit_impOld (s : State) (i : Nat) (b : Bool) : (s.setPswBit i b).impOld = s.impOld := rfl
@[simp] theorem setPswBit_impLag (s : State) (i : Nat) (b : Bool) : (s.setPswBit i b).impLag = s.impLag := rfl
@[simp] theorem setPswBit_inputs (s : State) (i : Nat) (b : Bool) : (s.setPswBit i b).inputs = s.inputs := rfl
@[simp] theorem setPswBit_answers (s : State) (i : Nat) (b : Bool) : (s.setPswBit i b).answers = s.answers := rfl
@[simp] theorem setPswBit_events (s : State) (i : Nat) (b : Bool) : (s.setPswBit i b).events = s.events := rfl
@[simp] theorem setPswBit_free (s : State) (i : Nat) (b : Bool) : (s.setPswBit i b).free = s.free := rfl
@[simp] theorem setPswBit_product (s : State) (i : Nat) (b : Bool) : (s.setPswBit i b).product = s.product := rfl
@[simp] theorem setPswBit_readReg (s : State) (i : Nat) (b : Bool) (q : Reg) : (s.setPswBit i b).readReg q = s.readReg q := rfl
@[simp] theorem setPswBit_read8 (s : State) (i : Nat) (b : Bool) (x : Word) : (s.setPswBit i b).read8 x = s.read8 x := rfl

/-! ## withFlags -/

@[simp] theorem withFlags_gr (s : State) (f : Flags) : (s.withFlags f).gr = s.gr := rfl
@[simp] theorem withFlags_pc (s : State) (f : Flags) : (s.withFlags f).pc = s.pc := rfl
@[simp] theorem withFlags_sys (s : State) (f : Flags) : (s.withFlags f).sys = s.sys := rfl
@[simp] theorem withFlags_mem (s : State) (f : Flags) : (s.withFlags f).mem = s.mem := rfl
@[simp] theorem withFlags_halted (s : State) (f : Flags) : (s.withFlags f).halted = s.halted := rfl
@[simp] theorem withFlags_impOld (s : State) (f : Flags) : (s.withFlags f).impOld = s.impOld := rfl
@[simp] theorem withFlags_impLag (s : State) (f : Flags) : (s.withFlags f).impLag = s.impLag := rfl
@[simp] theorem withFlags_inputs (s : State) (f : Flags) : (s.withFlags f).inputs = s.inputs := rfl
@[simp] theorem withFlags_answers (s : State) (f : Flags) : (s.withFlags f).answers = s.answers := rfl
@[simp] theorem withFlags_events (s : State) (f : Flags) : (s.withFlags f).events = s.events := rfl
@[simp] theorem withFlags_free (s : State) (f : Flags) : (s.withFlags f).free = s.free := rfl
@[simp] theorem withFlags_product (s : State) (f : Flags) : (s.withFlags f).product = s.product := rfl
@[simp] theorem withFlags_readReg (s : State) (f : Flags) (q : Reg) : (s.withFlags f).readReg q = s.readReg q := rfl
@[simp] theorem withFlags_read8 (s : State) (f : Flags) (x : Word) : (s.withFlags f).read8 x = s.read8 x := rfl

/-! ## withSatFlags -/

@[simp] theorem withSatFlags_gr (s : State) (f : Flags) : (s.withSatFlags f).gr = s.gr := rfl
@[simp] theorem withSatFlags_pc (s : State) (f : Flags) : (s.withSatFlags f).pc = s.pc := rfl
@[simp] theorem withSatFlags_sys (s : State) (f : Flags) : (s.withSatFlags f).sys = s.sys := rfl
@[simp] theorem withSatFlags_mem (s : State) (f : Flags) : (s.withSatFlags f).mem = s.mem := rfl
@[simp] theorem withSatFlags_halted (s : State) (f : Flags) : (s.withSatFlags f).halted = s.halted := rfl
@[simp] theorem withSatFlags_impOld (s : State) (f : Flags) : (s.withSatFlags f).impOld = s.impOld := rfl
@[simp] theorem withSatFlags_impLag (s : State) (f : Flags) : (s.withSatFlags f).impLag = s.impLag := rfl
@[simp] theorem withSatFlags_inputs (s : State) (f : Flags) : (s.withSatFlags f).inputs = s.inputs := rfl
@[simp] theorem withSatFlags_answers (s : State) (f : Flags) : (s.withSatFlags f).answers = s.answers := rfl
@[simp] theorem withSatFlags_events (s : State) (f : Flags) : (s.withSatFlags f).events = s.events := rfl
@[simp] theorem withSatFlags_free (s : State) (f : Flags) : (s.withSatFlags f).free = s.free := rfl
@[simp] theorem withSatFlags_product (s : State) (f : Flags) : (s.withSatFlags f).product = s.product := rfl
@[simp] theorem withSatFlags_readReg (s : State) (f : Flags) (q : Reg) : (s.withSatFlags f).readReg q = s.readReg q := rfl
@[simp] theorem withSatFlags_read8 (s : State) (f : Flags) (x : Word) : (s.withSatFlags f).read8 x = s.read8 x := rfl

/-! ## withLogicFlags -/

@[simp] theorem withLogicFlags_gr (s : State) (r : Word) : (s.withLogicFlags r).gr = s.gr := rfl
@[simp] theorem withLogicFlags_pc (s : State) (r : Word) : (s.withLogicFlags r).pc = s.pc := rfl
@[simp] theorem withLogicFlags_sys (s : State) (r : Word) : (s.withLogicFlags r).sys = s.sys := rfl
@[simp] theorem withLogicFlags_mem (s : State) (r : Word) : (s.withLogicFlags r).mem = s.mem := rfl
@[simp] theorem withLogicFlags_halted (s : State) (r : Word) : (s.withLogicFlags r).halted = s.halted := rfl
@[simp] theorem withLogicFlags_impOld (s : State) (r : Word) : (s.withLogicFlags r).impOld = s.impOld := rfl
@[simp] theorem withLogicFlags_impLag (s : State) (r : Word) : (s.withLogicFlags r).impLag = s.impLag := rfl
@[simp] theorem withLogicFlags_inputs (s : State) (r : Word) : (s.withLogicFlags r).inputs = s.inputs := rfl
@[simp] theorem withLogicFlags_answers (s : State) (r : Word) : (s.withLogicFlags r).answers = s.answers := rfl
@[simp] theorem withLogicFlags_events (s : State) (r : Word) : (s.withLogicFlags r).events = s.events := rfl
@[simp] theorem withLogicFlags_free (s : State) (r : Word) : (s.withLogicFlags r).free = s.free := rfl
@[simp] theorem withLogicFlags_product (s : State) (r : Word) : (s.withLogicFlags r).product = s.product := rfl
@[simp] theorem withLogicFlags_readReg (s : State) (r : Word) (q : Reg) : (s.withLogicFlags r).readReg q = s.readReg q := rfl
@[simp] theorem withLogicFlags_read8 (s : State) (r : Word) (x : Word) : (s.withLogicFlags r).read8 x = s.read8 x := rfl

/-! ## withDivFlags -/

@[simp] theorem withDivFlags_gr (s : State) (o g z : Bool) : (s.withDivFlags o g z).gr = s.gr := rfl
@[simp] theorem withDivFlags_pc (s : State) (o g z : Bool) : (s.withDivFlags o g z).pc = s.pc := rfl
@[simp] theorem withDivFlags_sys (s : State) (o g z : Bool) : (s.withDivFlags o g z).sys = s.sys := rfl
@[simp] theorem withDivFlags_mem (s : State) (o g z : Bool) : (s.withDivFlags o g z).mem = s.mem := rfl
@[simp] theorem withDivFlags_halted (s : State) (o g z : Bool) : (s.withDivFlags o g z).halted = s.halted := rfl
@[simp] theorem withDivFlags_impOld (s : State) (o g z : Bool) : (s.withDivFlags o g z).impOld = s.impOld := rfl
@[simp] theorem withDivFlags_impLag (s : State) (o g z : Bool) : (s.withDivFlags o g z).impLag = s.impLag := rfl
@[simp] theorem withDivFlags_inputs (s : State) (o g z : Bool) : (s.withDivFlags o g z).inputs = s.inputs := rfl
@[simp] theorem withDivFlags_answers (s : State) (o g z : Bool) : (s.withDivFlags o g z).answers = s.answers := rfl
@[simp] theorem withDivFlags_events (s : State) (o g z : Bool) : (s.withDivFlags o g z).events = s.events := rfl
@[simp] theorem withDivFlags_free (s : State) (o g z : Bool) : (s.withDivFlags o g z).free = s.free := rfl
@[simp] theorem withDivFlags_product (s : State) (o g z : Bool) : (s.withDivFlags o g z).product = s.product := rfl
@[simp] theorem withDivFlags_readReg (s : State) (o g z : Bool) (q : Reg) : (s.withDivFlags o g z).readReg q = s.readReg q := rfl
@[simp] theorem withDivFlags_read8 (s : State) (o g z : Bool) (x : Word) : (s.withDivFlags o g z).read8 x = s.read8 x := rfl

/-! ## write8 -/

@[simp] theorem write8_gr (s : State) (a : Word) (b : Byte) : (s.write8 a b).gr = s.gr := rfl
@[simp] theorem write8_pc (s : State) (a : Word) (b : Byte) : (s.write8 a b).pc = s.pc := rfl
@[simp] theorem write8_psw (s : State) (a : Word) (b : Byte) : (s.write8 a b).psw = s.psw := rfl
@[simp] theorem write8_sys (s : State) (a : Word) (b : Byte) : (s.write8 a b).sys = s.sys := rfl
@[simp] theorem write8_halted (s : State) (a : Word) (b : Byte) : (s.write8 a b).halted = s.halted := rfl
@[simp] theorem write8_impOld (s : State) (a : Word) (b : Byte) : (s.write8 a b).impOld = s.impOld := rfl
@[simp] theorem write8_impLag (s : State) (a : Word) (b : Byte) : (s.write8 a b).impLag = s.impLag := rfl
@[simp] theorem write8_inputs (s : State) (a : Word) (b : Byte) : (s.write8 a b).inputs = s.inputs := rfl
@[simp] theorem write8_answers (s : State) (a : Word) (b : Byte) : (s.write8 a b).answers = s.answers := rfl
@[simp] theorem write8_events (s : State) (a : Word) (b : Byte) : (s.write8 a b).events = s.events := rfl
@[simp] theorem write8_free (s : State) (a : Word) (b : Byte) : (s.write8 a b).free = s.free := rfl
@[simp] theorem write8_product (s : State) (a : Word) (b : Byte) : (s.write8 a b).product = s.product := rfl
@[simp] theorem write8_readReg (s : State) (a : Word) (b : Byte) (q : Reg) : (s.write8 a b).readReg q = s.readReg q := rfl

/-! ## write16 -/

@[simp] theorem write16_gr (s : State) (a v : Word) : (s.write16 a v).gr = s.gr := rfl
@[simp] theorem write16_pc (s : State) (a v : Word) : (s.write16 a v).pc = s.pc := rfl
@[simp] theorem write16_psw (s : State) (a v : Word) : (s.write16 a v).psw = s.psw := rfl
@[simp] theorem write16_sys (s : State) (a v : Word) : (s.write16 a v).sys = s.sys := rfl
@[simp] theorem write16_halted (s : State) (a v : Word) : (s.write16 a v).halted = s.halted := rfl
@[simp] theorem write16_impOld (s : State) (a v : Word) : (s.write16 a v).impOld = s.impOld := rfl
@[simp] theorem write16_impLag (s : State) (a v : Word) : (s.write16 a v).impLag = s.impLag := rfl
@[simp] theorem write16_inputs (s : State) (a v : Word) : (s.write16 a v).inputs = s.inputs := rfl
@[simp] theorem write16_answers (s : State) (a v : Word) : (s.write16 a v).answers = s.answers := rfl
@[simp] theorem write16_events (s : State) (a v : Word) : (s.write16 a v).events = s.events := rfl
@[simp] theorem write16_free (s : State) (a v : Word) : (s.write16 a v).free = s.free := rfl
@[simp] theorem write16_product (s : State) (a v : Word) : (s.write16 a v).product = s.product := rfl
@[simp] theorem write16_readReg (s : State) (a v : Word) (q : Reg) : (s.write16 a v).readReg q = s.readReg q := rfl

/-! ## write32 -/

@[simp] theorem write32_gr (s : State) (a v : Word) : (s.write32 a v).gr = s.gr := rfl
@[simp] theorem write32_pc (s : State) (a v : Word) : (s.write32 a v).pc = s.pc := rfl
@[simp] theorem write32_psw (s : State) (a v : Word) : (s.write32 a v).psw = s.psw := rfl
@[simp] theorem write32_sys (s : State) (a v : Word) : (s.write32 a v).sys = s.sys := rfl
@[simp] theorem write32_halted (s : State) (a v : Word) : (s.write32 a v).halted = s.halted := rfl
@[simp] theorem write32_impOld (s : State) (a v : Word) : (s.write32 a v).impOld = s.impOld := rfl
@[simp] theorem write32_impLag (s : State) (a v : Word) : (s.write32 a v).impLag = s.impLag := rfl
@[simp] theorem write32_inputs (s : State) (a v : Word) : (s.write32 a v).inputs = s.inputs := rfl
@[simp] theorem write32_answers (s : State) (a v : Word) : (s.write32 a v).answers = s.answers := rfl
@[simp] theorem write32_events (s : State) (a v : Word) : (s.write32 a v).events = s.events := rfl
@[simp] theorem write32_free (s : State) (a v : Word) : (s.write32 a v).free = s.free := rfl
@[simp] theorem write32_product (s : State) (a v : Word) : (s.write32 a v).product = s.product := rfl
@[simp] theorem write32_readReg (s : State) (a v : Word) (q : Reg) : (s.write32 a v).readReg q = s.readReg q := rfl

/-! ## note -/

@[simp] theorem note_gr (s : State) (e : Event) : (s.note e).gr = s.gr := rfl
@[simp] theorem note_pc (s : State) (e : Event) : (s.note e).pc = s.pc := rfl
@[simp] theorem note_psw (s : State) (e : Event) : (s.note e).psw = s.psw := rfl
@[simp] theorem note_sys (s : State) (e : Event) : (s.note e).sys = s.sys := rfl
@[simp] theorem note_mem (s : State) (e : Event) : (s.note e).mem = s.mem := rfl
@[simp] theorem note_halted (s : State) (e : Event) : (s.note e).halted = s.halted := rfl
@[simp] theorem note_impOld (s : State) (e : Event) : (s.note e).impOld = s.impOld := rfl
@[simp] theorem note_impLag (s : State) (e : Event) : (s.note e).impLag = s.impLag := rfl
@[simp] theorem note_inputs (s : State) (e : Event) : (s.note e).inputs = s.inputs := rfl
@[simp] theorem note_free (s : State) (e : Event) : (s.note e).free = s.free := rfl
@[simp] theorem note_product (s : State) (e : Event) : (s.note e).product = s.product := rfl
@[simp] theorem note_readReg (s : State) (e : Event) (q : Reg) : (s.note e).readReg q = s.readReg q := rfl
@[simp] theorem note_read8 (s : State) (e : Event) (x : Word) : (s.note e).read8 x = s.read8 x := rfl

/-! ## fetchAfter -/

@[simp] theorem fetchAfter_gr (s : State) (k : Nat) : (s.fetchAfter k).gr = s.gr := rfl
@[simp] theorem fetchAfter_pc (s : State) (k : Nat) : (s.fetchAfter k).pc = s.pc := rfl
@[simp] theorem fetchAfter_psw (s : State) (k : Nat) : (s.fetchAfter k).psw = s.psw := rfl
@[simp] theorem fetchAfter_sys (s : State) (k : Nat) : (s.fetchAfter k).sys = s.sys := rfl
@[simp] theorem fetchAfter_mem (s : State) (k : Nat) : (s.fetchAfter k).mem = s.mem := rfl
@[simp] theorem fetchAfter_halted (s : State) (k : Nat) : (s.fetchAfter k).halted = s.halted := rfl
@[simp] theorem fetchAfter_impOld (s : State) (k : Nat) : (s.fetchAfter k).impOld = s.impOld := rfl
@[simp] theorem fetchAfter_impLag (s : State) (k : Nat) : (s.fetchAfter k).impLag = s.impLag := rfl
@[simp] theorem fetchAfter_inputs (s : State) (k : Nat) : (s.fetchAfter k).inputs = s.inputs := rfl
@[simp] theorem fetchAfter_free (s : State) (k : Nat) : (s.fetchAfter k).free = s.free := rfl
@[simp] theorem fetchAfter_product (s : State) (k : Nat) : (s.fetchAfter k).product = s.product := rfl
@[simp] theorem fetchAfter_readReg (s : State) (k : Nat) (q : Reg) : (s.fetchAfter k).readReg q = s.readReg q := rfl
@[simp] theorem fetchAfter_read8 (s : State) (k : Nat) (x : Word) : (s.fetchAfter k).read8 x = s.read8 x := rfl

/-! ## fetchDone -/

@[simp] theorem fetchDone_gr (s : State) : (s.fetchDone).gr = s.gr := rfl
@[simp] theorem fetchDone_pc (s : State) : (s.fetchDone).pc = s.pc := rfl
@[simp] theorem fetchDone_psw (s : State) : (s.fetchDone).psw = s.psw := rfl
@[simp] theorem fetchDone_sys (s : State) : (s.fetchDone).sys = s.sys := rfl
@[simp] theorem fetchDone_mem (s : State) : (s.fetchDone).mem = s.mem := rfl
@[simp] theorem fetchDone_halted (s : State) : (s.fetchDone).halted = s.halted := rfl
@[simp] theorem fetchDone_impOld (s : State) : (s.fetchDone).impOld = s.impOld := rfl
@[simp] theorem fetchDone_impLag (s : State) : (s.fetchDone).impLag = s.impLag := rfl
@[simp] theorem fetchDone_inputs (s : State) : (s.fetchDone).inputs = s.inputs := rfl
@[simp] theorem fetchDone_free (s : State) : (s.fetchDone).free = s.free := rfl
@[simp] theorem fetchDone_product (s : State) : (s.fetchDone).product = s.product := rfl
@[simp] theorem fetchDone_readReg (s : State) (q : Reg) : (s.fetchDone).readReg q = s.readReg q := rfl
@[simp] theorem fetchDone_read8 (s : State) (x : Word) : (s.fetchDone).read8 x = s.read8 x := rfl

/-! ## testBit -/

@[simp] theorem testBit_gr (s : State) (b : Byte) (k : Nat) : (s.testBit b k).gr = s.gr := rfl
@[simp] theorem testBit_pc (s : State) (b : Byte) (k : Nat) : (s.testBit b k).pc = s.pc := rfl
@[simp] theorem testBit_sys (s : State) (b : Byte) (k : Nat) : (s.testBit b k).sys = s.sys := rfl
@[simp] theorem testBit_mem (s : State) (b : Byte) (k : Nat) : (s.testBit b k).mem = s.mem := rfl
@[simp] theorem testBit_halted (s : State) (b : Byte) (k : Nat) : (s.testBit b k).halted = s.halted := rfl
@[simp] theorem testBit_impOld (s : State) (b : Byte) (k : Nat) : (s.testBit b k).impOld = s.impOld := rfl
@[simp] theorem testBit_impLag (s : State) (b : Byte) (k : Nat) : (s.testBit b k).impLag = s.impLag := rfl
@[simp] theorem testBit_inputs (s : State) (b : Byte) (k : Nat) : (s.testBit b k).inputs = s.inputs := rfl
@[simp] theorem testBit_answers (s : State) (b : Byte) (k : Nat) : (s.testBit b k).answers = s.answers := rfl
@[simp] theorem testBit_events (s : State) (b : Byte) (k : Nat) : (s.testBit b k).events = s.events := rfl
@[simp] theorem testBit_free (s : State) (b : Byte) (k : Nat) : (s.testBit b k).free = s.free := rfl
@[simp] theorem testBit_product (s : State) (b : Byte) (k : Nat) : (s.testBit b k).product = s.product := rfl
@[simp] theorem testBit_readReg (s : State) (b : Byte) (k : Nat) (q : Reg) : (s.testBit b k).readReg q = s.readReg q := rfl
@[simp] theorem testBit_read8 (s : State) (b : Byte) (k : Nat) (x : Word) : (s.testBit b k).read8 x = s.read8 x := rfl

/-! ## useFree -/

@[simp] theorem useFree_gr (s : State) : (s.useFree).gr = s.gr := rfl
@[simp] theorem useFree_pc (s : State) : (s.useFree).pc = s.pc := rfl
@[simp] theorem useFree_psw (s : State) : (s.useFree).psw = s.psw := rfl
@[simp] theorem useFree_sys (s : State) : (s.useFree).sys = s.sys := rfl
@[simp] theorem useFree_mem (s : State) : (s.useFree).mem = s.mem := rfl
@[simp] theorem useFree_halted (s : State) : (s.useFree).halted = s.halted := rfl
@[simp] theorem useFree_impOld (s : State) : (s.useFree).impOld = s.impOld := rfl
@[simp] theorem useFree_impLag (s : State) : (s.useFree).impLag = s.impLag := rfl
@[simp] theorem useFree_inputs (s : State) : (s.useFree).inputs = s.inputs := rfl
@[simp] theorem useFree_answers (s : State) : (s.useFree).answers = s.answers := rfl
@[simp] theorem useFree_events (s : State) : (s.useFree).events = s.events := rfl
@[simp] theorem useFree_product (s : State) : (s.useFree).product = s.product := rfl
@[simp] theorem useFree_readReg (s : State) (q : Reg) : (s.useFree).readReg q = s.readReg q := rfl
@[simp] theorem useFree_read8 (s : State) (x : Word) : (s.useFree).read8 x = s.read8 x := rfl

/-! ## saveCall -/

@[simp] theorem saveCall_gr (s : State) : (s.saveCall).gr = s.gr := rfl
@[simp] theorem saveCall_pc (s : State) : (s.saveCall).pc = s.pc := rfl
@[simp] theorem saveCall_psw (s : State) : (s.saveCall).psw = s.psw := rfl
@[simp] theorem saveCall_mem (s : State) : (s.saveCall).mem = s.mem := rfl
@[simp] theorem saveCall_halted (s : State) : (s.saveCall).halted = s.halted := rfl
@[simp] theorem saveCall_impOld (s : State) : (s.saveCall).impOld = s.impOld := rfl
@[simp] theorem saveCall_impLag (s : State) : (s.saveCall).impLag = s.impLag := rfl
@[simp] theorem saveCall_inputs (s : State) : (s.saveCall).inputs = s.inputs := rfl
@[simp] theorem saveCall_answers (s : State) : (s.saveCall).answers = s.answers := rfl
@[simp] theorem saveCall_events (s : State) : (s.saveCall).events = s.events := rfl
@[simp] theorem saveCall_free (s : State) : (s.saveCall).free = s.free := rfl
@[simp] theorem saveCall_product (s : State) : (s.saveCall).product = s.product := rfl
@[simp] theorem saveCall_readReg (s : State) (q : Reg) : (s.saveCall).readReg q = s.readReg q := rfl
@[simp] theorem saveCall_read8 (s : State) (x : Word) : (s.saveCall).read8 x = s.read8 x := rfl

/-! ## recordMemoryViolation -/

@[simp] theorem recordMemoryViolation_gr (s : State) (a c : Word) : (s.recordMemoryViolation a c).gr = s.gr := rfl
@[simp] theorem recordMemoryViolation_pc (s : State) (a c : Word) : (s.recordMemoryViolation a c).pc = s.pc := rfl
@[simp] theorem recordMemoryViolation_psw (s : State) (a c : Word) : (s.recordMemoryViolation a c).psw = s.psw := rfl
@[simp] theorem recordMemoryViolation_mem (s : State) (a c : Word) : (s.recordMemoryViolation a c).mem = s.mem := rfl
@[simp] theorem recordMemoryViolation_halted (s : State) (a c : Word) : (s.recordMemoryViolation a c).halted = s.halted := rfl
@[simp] theorem recordMemoryViolation_impOld (s : State) (a c : Word) : (s.recordMemoryViolation a c).impOld = s.impOld := rfl
@[simp] theorem recordMemoryViolation_impLag (s : State) (a c : Word) : (s.recordMemoryViolation a c).impLag = s.impLag := rfl
@[simp] theorem recordMemoryViolation_inputs (s : State) (a c : Word) : (s.recordMemoryViolation a c).inputs = s.inputs := rfl
@[simp] theorem recordMemoryViolation_answers (s : State) (a c : Word) : (s.recordMemoryViolation a c).answers = s.answers := rfl
@[simp] theorem recordMemoryViolation_events (s : State) (a c : Word) : (s.recordMemoryViolation a c).events = s.events := rfl
@[simp] theorem recordMemoryViolation_free (s : State) (a c : Word) : (s.recordMemoryViolation a c).free = s.free := rfl
@[simp] theorem recordMemoryViolation_product (s : State) (a c : Word) : (s.recordMemoryViolation a c).product = s.product := rfl
@[simp] theorem recordMemoryViolation_readReg (s : State) (a c : Word) (q : Reg) : (s.recordMemoryViolation a c).readReg q = s.readReg q := rfl
@[simp] theorem recordMemoryViolation_read8 (s : State) (a c : Word) (x : Word) : (s.recordMemoryViolation a c).read8 x = s.read8 x := rfl

/-! ## take -/

@[simp] theorem take_gr (s : State) (c : Cause) : (s.take c).gr = s.gr := rfl
@[simp] theorem take_mem (s : State) (c : Cause) : (s.take c).mem = s.mem := rfl
@[simp] theorem take_halted (s : State) (c : Cause) : (s.take c).halted = s.halted := rfl
@[simp] theorem take_impOld (s : State) (c : Cause) : (s.take c).impOld = s.impOld := rfl
@[simp] theorem take_inputs (s : State) (c : Cause) : (s.take c).inputs = s.inputs := rfl
@[simp] theorem take_answers (s : State) (c : Cause) : (s.take c).answers = s.answers := rfl
@[simp] theorem take_free (s : State) (c : Cause) : (s.take c).free = s.free := rfl
@[simp] theorem take_product (s : State) (c : Cause) : (s.take c).product = s.product := rfl
@[simp] theorem take_readReg (s : State) (c : Cause) (q : Reg) : (s.take c).readReg q = s.readReg q := rfl
@[simp] theorem take_read8 (s : State) (c : Cause) (x : Word) : (s.take c).read8 x = s.read8 x := rfl

/-! ## takeMdp -/

@[simp] theorem takeMdp_gr (s : State) (acc : Access) : (s.takeMdp acc).gr = s.gr := rfl
@[simp] theorem takeMdp_mem (s : State) (acc : Access) : (s.takeMdp acc).mem = s.mem := rfl
@[simp] theorem takeMdp_halted (s : State) (acc : Access) : (s.takeMdp acc).halted = s.halted := rfl
@[simp] theorem takeMdp_impOld (s : State) (acc : Access) : (s.takeMdp acc).impOld = s.impOld := rfl
@[simp] theorem takeMdp_inputs (s : State) (acc : Access) : (s.takeMdp acc).inputs = s.inputs := rfl
@[simp] theorem takeMdp_answers (s : State) (acc : Access) : (s.takeMdp acc).answers = s.answers := rfl
@[simp] theorem takeMdp_events (s : State) (acc : Access) : (s.takeMdp acc).events = s.events := rfl
@[simp] theorem takeMdp_free (s : State) (acc : Access) : (s.takeMdp acc).free = s.free := rfl
@[simp] theorem takeMdp_product (s : State) (acc : Access) : (s.takeMdp acc).product = s.product := rfl
@[simp] theorem takeMdp_readReg (s : State) (acc : Access) (q : Reg) : (s.takeMdp acc).readReg q = s.readReg q := rfl
@[simp] theorem takeMdp_read8 (s : State) (acc : Access) (x : Word) : (s.takeMdp acc).read8 x = s.read8 x := rfl

/-! ## takeError -/

@[simp] theorem takeError_gr (s : State) (e : AccessError) : (s.takeError e).gr = s.gr := rfl
@[simp] theorem takeError_mem (s : State) (e : AccessError) : (s.takeError e).mem = s.mem := rfl
@[simp] theorem takeError_halted (s : State) (e : AccessError) : (s.takeError e).halted = s.halted := rfl
@[simp] theorem takeError_impOld (s : State) (e : AccessError) : (s.takeError e).impOld = s.impOld := rfl
@[simp] theorem takeError_inputs (s : State) (e : AccessError) : (s.takeError e).inputs = s.inputs := rfl
@[simp] theorem takeError_answers (s : State) (e : AccessError) : (s.takeError e).answers = s.answers := rfl
@[simp] theorem takeError_free (s : State) (e : AccessError) : (s.takeError e).free = s.free := rfl
@[simp] theorem takeError_product (s : State) (e : AccessError) : (s.takeError e).product = s.product := rfl
@[simp] theorem takeError_readReg (s : State) (e : AccessError) (q : Reg) : (s.takeError e).readReg q = s.readReg q := rfl
@[simp] theorem takeError_read8 (s : State) (e : AccessError) (x : Word) : (s.takeError e).read8 x = s.read8 x := rfl

/-! ## takeMip -/

@[simp] theorem takeMip_gr (s : State) : (s.takeMip).gr = s.gr := rfl
@[simp] theorem takeMip_mem (s : State) : (s.takeMip).mem = s.mem := rfl
@[simp] theorem takeMip_halted (s : State) : (s.takeMip).halted = s.halted := rfl
@[simp] theorem takeMip_impOld (s : State) : (s.takeMip).impOld = s.impOld := rfl
@[simp] theorem takeMip_inputs (s : State) : (s.takeMip).inputs = s.inputs := rfl
@[simp] theorem takeMip_answers (s : State) : (s.takeMip).answers = s.answers := rfl
@[simp] theorem takeMip_events (s : State) : (s.takeMip).events = s.events := rfl
@[simp] theorem takeMip_free (s : State) : (s.takeMip).free = s.free := rfl
@[simp] theorem takeMip_product (s : State) : (s.takeMip).product = s.product := rfl
@[simp] theorem takeMip_readReg (s : State) (q : Reg) : (s.takeMip).readReg q = s.readReg q := rfl
@[simp] theorem takeMip_read8 (s : State) (x : Word) : (s.takeMip).read8 x = s.read8 x := rfl

/-! ## restore -/

@[simp] theorem restore_gr (s : State) (p v : Word) : (s.restore p v).gr = s.gr := rfl
@[simp] theorem restore_sys (s : State) (p v : Word) : (s.restore p v).sys = s.sys := rfl
@[simp] theorem restore_mem (s : State) (p v : Word) : (s.restore p v).mem = s.mem := rfl
@[simp] theorem restore_halted (s : State) (p v : Word) : (s.restore p v).halted = s.halted := rfl
@[simp] theorem restore_impOld (s : State) (p v : Word) : (s.restore p v).impOld = s.impOld := rfl
@[simp] theorem restore_inputs (s : State) (p v : Word) : (s.restore p v).inputs = s.inputs := rfl
@[simp] theorem restore_answers (s : State) (p v : Word) : (s.restore p v).answers = s.answers := rfl
@[simp] theorem restore_events (s : State) (p v : Word) : (s.restore p v).events = s.events := rfl
@[simp] theorem restore_free (s : State) (p v : Word) : (s.restore p v).free = s.free := rfl
@[simp] theorem restore_product (s : State) (p v : Word) : (s.restore p v).product = s.product := rfl
@[simp] theorem restore_readReg (s : State) (p v : Word) (q : Reg) : (s.restore p v).readReg q = s.readReg q := rfl
@[simp] theorem restore_read8 (s : State) (p v : Word) (x : Word) : (s.restore p v).read8 x = s.read8 x := rfl

/-! ## notifyEnd -/

@[simp] theorem notifyEnd_gr (s : State) : (s.notifyEnd).gr = s.gr := by
  unfold State.notifyEnd; split <;> rfl
@[simp] theorem notifyEnd_pc (s : State) : (s.notifyEnd).pc = s.pc := by
  unfold State.notifyEnd; split <;> rfl
@[simp] theorem notifyEnd_psw (s : State) : (s.notifyEnd).psw = s.psw := by
  unfold State.notifyEnd; split <;> rfl
@[simp] theorem notifyEnd_sys (s : State) : (s.notifyEnd).sys = s.sys := by
  unfold State.notifyEnd; split <;> rfl
@[simp] theorem notifyEnd_mem (s : State) : (s.notifyEnd).mem = s.mem := by
  unfold State.notifyEnd; split <;> rfl
@[simp] theorem notifyEnd_halted (s : State) : (s.notifyEnd).halted = s.halted := by
  unfold State.notifyEnd; split <;> rfl
@[simp] theorem notifyEnd_impOld (s : State) : (s.notifyEnd).impOld = s.impOld := by
  unfold State.notifyEnd; split <;> rfl
@[simp] theorem notifyEnd_impLag (s : State) : (s.notifyEnd).impLag = s.impLag := by
  unfold State.notifyEnd; split <;> rfl
@[simp] theorem notifyEnd_inputs (s : State) : (s.notifyEnd).inputs = s.inputs := by
  unfold State.notifyEnd; split <;> rfl
@[simp] theorem notifyEnd_answers (s : State) : (s.notifyEnd).answers = s.answers := by
  unfold State.notifyEnd; split <;> rfl
@[simp] theorem notifyEnd_free (s : State) : (s.notifyEnd).free = s.free := by
  unfold State.notifyEnd; split <;> rfl
@[simp] theorem notifyEnd_product (s : State) : (s.notifyEnd).product = s.product := by
  unfold State.notifyEnd; split <;> rfl
@[simp] theorem notifyEnd_readReg (s : State) (q : Reg) : (s.notifyEnd).readReg q = s.readReg q := by
  unfold State.notifyEnd; split <;> rfl
@[simp] theorem notifyEnd_read8 (s : State) (x : Word) : (s.notifyEnd).read8 x = s.read8 x := by
  unfold State.notifyEnd; split <;> rfl

/-! ## tickImp -/

@[simp] theorem tickImp_gr (s : State) : (s.tickImp).gr = s.gr := rfl
@[simp] theorem tickImp_pc (s : State) : (s.tickImp).pc = s.pc := rfl
@[simp] theorem tickImp_psw (s : State) : (s.tickImp).psw = s.psw := rfl
@[simp] theorem tickImp_sys (s : State) : (s.tickImp).sys = s.sys := rfl
@[simp] theorem tickImp_mem (s : State) : (s.tickImp).mem = s.mem := rfl
@[simp] theorem tickImp_halted (s : State) : (s.tickImp).halted = s.halted := rfl
@[simp] theorem tickImp_impOld (s : State) : (s.tickImp).impOld = s.impOld := rfl
@[simp] theorem tickImp_inputs (s : State) : (s.tickImp).inputs = s.inputs := rfl
@[simp] theorem tickImp_answers (s : State) : (s.tickImp).answers = s.answers := rfl
@[simp] theorem tickImp_events (s : State) : (s.tickImp).events = s.events := rfl
@[simp] theorem tickImp_free (s : State) : (s.tickImp).free = s.free := rfl
@[simp] theorem tickImp_product (s : State) : (s.tickImp).product = s.product := rfl
@[simp] theorem tickImp_readReg (s : State) (q : Reg) : (s.tickImp).readReg q = s.readReg q := rfl
@[simp] theorem tickImp_read8 (s : State) (x : Word) : (s.tickImp).read8 x = s.read8 x := rfl

/-! ## popSample -/

@[simp] theorem popSample_gr (s : State) : (s.popSample).gr = s.gr := rfl
@[simp] theorem popSample_pc (s : State) : (s.popSample).pc = s.pc := rfl
@[simp] theorem popSample_psw (s : State) : (s.popSample).psw = s.psw := rfl
@[simp] theorem popSample_sys (s : State) : (s.popSample).sys = s.sys := rfl
@[simp] theorem popSample_mem (s : State) : (s.popSample).mem = s.mem := rfl
@[simp] theorem popSample_halted (s : State) : (s.popSample).halted = s.halted := rfl
@[simp] theorem popSample_impOld (s : State) : (s.popSample).impOld = s.impOld := rfl
@[simp] theorem popSample_impLag (s : State) : (s.popSample).impLag = s.impLag := rfl
@[simp] theorem popSample_answers (s : State) : (s.popSample).answers = s.answers := rfl
@[simp] theorem popSample_events (s : State) : (s.popSample).events = s.events := rfl
@[simp] theorem popSample_free (s : State) : (s.popSample).free = s.free := rfl
@[simp] theorem popSample_product (s : State) : (s.popSample).product = s.product := rfl
@[simp] theorem popSample_readReg (s : State) (q : Reg) : (s.popSample).readReg q = s.readReg q := rfl
@[simp] theorem popSample_read8 (s : State) (x : Word) : (s.popSample).read8 x = s.read8 x := rfl

/-! ## What an update writes -/

@[simp] theorem setPc_pc (s : State) (v : Word) : (s.setPc v).pc = pcmask v := rfl
@[simp] theorem advance_pc (s : State) (n : Nat) : (s.advance n).pc = pcmask (s.pc + BitVec.ofNat 32 n) := rfl
@[simp] theorem setPswBit_psw (s : State) (i : Nat) (b : Bool) : (s.setPswBit i b).psw = setBit s.psw i b := rfl
@[simp] theorem write8_mem (s : State) (a : Word) (b : Byte) : (s.write8 a b).mem = Memory.write s.mem a.toNat b := rfl
@[simp] theorem useFree_free (s : State) : s.useFree.free = s.free + 3 := rfl
@[simp] theorem take_pc (s : State) (c : Cause) : (s.take c).pc = pcmask c.handler := rfl
@[simp] theorem take_psw (s : State) (c : Cause) : (s.take c).psw = s.acceptedPsw c := rfl
@[simp] theorem take_sys (s : State) (c : Cause) : (s.take c).sys = s.savedContext c := rfl
@[simp] theorem take_impLag (s : State) (c : Cause) : (s.take c).impLag = 0 := rfl
@[simp] theorem take_events (s : State) (c : Cause) :
    (s.take c).events = if c.interrupt then .ack c.code :: s.events else s.events := rfl
@[simp] theorem restore_pc (s : State) (p v : Word) : (s.restore p v).pc = pcmask p := rfl
@[simp] theorem restore_psw (s : State) (p v : Word) : (s.restore p v).psw = legalPsw s.mpm v := rfl
@[simp] theorem restore_impLag (s : State) (p v : Word) : (s.restore p v).impLag = 0 := rfl
@[simp] theorem note_answers (s : State) (e : Event) : (s.note e).answers = s.answers.tail := rfl
@[simp] theorem note_events (s : State) (e : Event) : (s.note e).events = e :: s.events := rfl
@[simp] theorem tickImp_impLag (s : State) : s.tickImp.impLag = s.impLag - 1 := rfl
@[simp] theorem popSample_inputs (s : State) : s.popSample.inputs = s.inputs.tail := rfl

/-- A step where nothing is left of the platform's samples, no change of IMP lags and the CPU runs acts on the state itself. -/
theorem tickImp_of_settled {s : State} (h : s.impLag = 0) : s.tickImp = s := by
  cases s; simp_all [State.tickImp]

end Sys2Proof.Laws
end

