-- ==== Sys2Proof/Laws/Memory.lean ====
section
/-! SUPPORT. The laws of memory: a read after a write to the same place gives the value written, a write leaves every other
place alone, and every memory operation keeps the canonical form. -/

namespace Sys2Proof.Laws

open Sys2Proof.Machine

/-! ## Entries -/

theorem lookup_erase (m : List Host.Cell) (a x : Nat) :
    Memory.lookup (Memory.erase m a) x = if x = a then blankByte else Memory.lookup m x := by
  induction m with
  | nil => simp [Memory.erase, Memory.lookup]
  | cons c m ih => grind [Memory.erase, Memory.lookup]

theorem lookup_insert (m : List Host.Cell) (a x : Nat) (b : Byte) (h : ∀ c ∈ m, c.1 ≠ a) :
    Memory.lookup (Memory.insert m a b) x = if x = a then b else Memory.lookup m x := by
  induction m with
  | nil => grind [Memory.insert, Memory.lookup]
  | cons c m ih => grind [Memory.insert, Memory.lookup]

theorem erase_keys (m : List Host.Cell) (a : Nat) : ∀ c ∈ Memory.erase m a, c.1 ≠ a := by
  induction m with
  | nil => simp [Memory.erase]
  | cons c m ih => grind [Memory.erase]

/-- What a write does to every address. -/
theorem lookup_write (m : List Host.Cell) (a x : Nat) (b : Byte) :
    Memory.lookup (Memory.write m a b) x = if x = a then b else Memory.lookup m x := by
  unfold Memory.write
  split
  · rename_i h; rw [lookup_erase, h]
  · rw [lookup_insert _ _ _ _ (erase_keys m a), lookup_erase]; grind

/-! ## The canonical form -/

theorem wfFrom_mono {lo lo' : Nat} (h : lo' ≤ lo) {m : List Host.Cell} (hm : Memory.wfFrom lo m = true) :
    Memory.wfFrom lo' m = true := by
  cases m with
  | nil => rfl
  | cons c m =>
    simp only [Memory.wfFrom, Bool.and_eq_true, decide_eq_true_eq] at hm ⊢
    exact ⟨⟨⟨by omega, hm.1.1.2⟩, hm.1.2⟩, hm.2⟩

theorem wfFrom_erase {lo : Nat} {m : List Host.Cell} (a : Nat) (hm : Memory.wfFrom lo m = true) :
    Memory.wfFrom lo (Memory.erase m a) = true := by
  induction m generalizing lo with
  | nil => rfl
  | cons c m ih =>
    simp only [Memory.wfFrom, Bool.and_eq_true, decide_eq_true_eq] at hm
    simp only [Memory.erase]
    split
    · exact wfFrom_mono (by omega) (ih hm.2)
    · simp only [Memory.wfFrom, Bool.and_eq_true, decide_eq_true_eq]; exact ⟨hm.1, ih hm.2⟩

theorem wfFrom_insert {lo a : Nat} {b : Byte} {m : List Host.Cell} (hlo : lo ≤ a) (ha : a < 2 ^ 32) (hb : b ≠ blankByte)
    (hk : ∀ c ∈ m, c.1 ≠ a) (hm : Memory.wfFrom lo m = true) : Memory.wfFrom lo (Memory.insert m a b) = true := by
  induction m generalizing lo with
  | nil => simp [Memory.insert, Memory.wfFrom, blankByte] at hb ⊢; exact ⟨⟨hlo, ha⟩, hb⟩
  | cons c m ih =>
    simp only [Memory.wfFrom, Bool.and_eq_true, decide_eq_true_eq] at hm
    have hc : c.1 ≠ a := hk c (by simp)
    simp only [Memory.insert]
    split
    · simp only [Memory.wfFrom, Bool.and_eq_true, decide_eq_true_eq, bne_iff_ne]
      exact ⟨⟨⟨hlo, ha⟩, hb⟩, ⟨⟨⟨by omega, hm.1.1.2⟩, by simpa using hm.1.2⟩, hm.2⟩⟩
    · simp only [Memory.wfFrom, Bool.and_eq_true, decide_eq_true_eq]
      exact ⟨hm.1, ih (by omega) (fun d hd => hk d (by simp [hd])) hm.2⟩

/-- A write keeps the canonical form. -/
theorem wf_write {m : List Host.Cell} {a : Nat} (b : Byte) (ha : a < 2 ^ 32) (hm : Memory.wf m = true) :
    Memory.wf (Memory.write m a b) = true := by
  unfold Memory.write
  split
  · exact wfFrom_erase a hm
  · rename_i hb; exact wfFrom_insert (Nat.zero_le _) ha hb (erase_keys m a) (wfFrom_erase a hm)

theorem wf_write8 {s : State} (a : Word) (b : Byte) (hm : Memory.wf s.mem = true) :
    Memory.wf (s.write8 a b).mem = true := wf_write b a.isLt hm

theorem wf_write16 {s : State} (a v : Word) (hm : Memory.wf s.mem = true) : Memory.wf (s.write16 a v).mem = true :=
  wf_write8 _ _ (wf_write8 _ _ hm)

theorem wf_write32 {s : State} (a v : Word) (hm : Memory.wf s.mem = true) : Memory.wf (s.write32 a v).mem = true :=
  wf_write8 _ _ (wf_write8 _ _ (wf_write8 _ _ (wf_write8 _ _ hm)))

/-- The memory after reset has the canonical form. -/
theorem wf_reset : Memory.wf State.reset.mem = true := rfl

/-! ## Reads after writes -/

theorem read8_write8 (s : State) (a x : Word) (b : Byte) :
    (s.write8 a b).read8 x = if x = a then b else s.read8 x := by
  have : (x.toNat = a.toNat) ↔ x = a := by rw [BitVec.toNat_inj]
  simp [State.read8, State.write8, lookup_write, this]

theorem read8_write16 (s : State) (a v x : Word) :
    (s.write16 a v).read8 x = if x = a + 1 then byteOf v 1 else if x = a then byteOf v 0 else s.read8 x := by
  simp [State.write16, read8_write8]

theorem read8_write32 (s : State) (a v x : Word) :
    (s.write32 a v).read8 x =
      if x = a + 3 then byteOf v 3 else if x = a + 2 then byteOf v 2 else if x = a + 1 then byteOf v 1
      else if x = a then byteOf v 0 else s.read8 x := by
  simp [State.write32, read8_write8]

theorem bytes_of_word (v : Word) : byteOf v 3 ++ byteOf v 2 ++ byteOf v 1 ++ byteOf v 0 = v := by
  apply BitVec.eq_of_getLsbD_eq
  intro i hi
  simp [byteOf]
  grind

theorem bytes_of_half (v : Word) : byteOf v 1 ++ byteOf v 0 = lowHalf v := by
  apply BitVec.eq_of_getLsbD_eq
  intro i hi
  simp [byteOf, lowHalf]
  grind

/-- The bytes of a written halfword give it back. -/
theorem half_write16 (s : State) (a v : Word) :
    (s.write16 a v).read8 (a + 1) ++ (s.write16 a v).read8 a = lowHalf v := by
  simp [read8_write16, bytes_of_half]

/-- The bytes of a written word give it back. -/
theorem word_write32 (s : State) (a v : Word) :
    (s.write32 a v).read8 (a + 3) ++ (s.write32 a v).read8 (a + 2) ++ (s.write32 a v).read8 (a + 1) ++
      (s.write32 a v).read8 a = v := by
  have h1 : a ≠ a + 1 := by bv_omega
  have h2 : a ≠ a + 2 := by bv_omega
  have h3 : a ≠ a + 3 := by bv_omega
  have h4 : a + 1 ≠ a + 2 := by bv_omega
  have h5 : a + 1 ≠ a + 3 := by bv_omega
  have h6 : a + 2 ≠ a + 3 := by bv_omega
  simp only [read8_write32, h1, h2, h3, h4, h5, h6, if_true, if_false]
  exact bytes_of_word v

/-- A byte outside the stored word reads as before. -/
theorem read8_write32_other (s : State) (a v x : Word) (h : ∀ k : Nat, k < 4 → x ≠ a + BitVec.ofNat 32 k) :
    (s.write32 a v).read8 x = s.read8 x := by
  have h0 := h 0 (by omega); have h1 := h 1 (by omega); have h2 := h 2 (by omega); have h3 := h 3 (by omega)
  simp at h0 h1 h2 h3
  simp [read8_write32, h0, h1, h2, h3]

/-- A byte outside the stored halfword reads as before. -/
theorem read8_write16_other (s : State) (a v x : Word) (h : ∀ k : Nat, k < 2 → x ≠ a + BitVec.ofNat 32 k) :
    (s.write16 a v).read8 x = s.read8 x := by
  have h0 := h 0 (by omega); have h1 := h 1 (by omega)
  simp at h0 h1
  simp [read8_write16, h0, h1]

end Sys2Proof.Laws
end

