-- ==== Sys2Proof/Laws/Bus.lean ====
section
/-! SUPPORT. What MemRead, MemWrite and the fetch can do, said once: on plain memory, at addresses where the platform answers,
and to the rest of the state. -/

namespace Sys2Proof.Laws

open Sys2Proof.Machine Sys2Proof.Safety

/-! ## Only the platform is asked -/

theorem onlyAsked_refl (s : State) : OnlyAsked s s := rfl

theorem onlyAsked_trans {s t u : State} (h : OnlyAsked s t) (g : OnlyAsked t u) : OnlyAsked s u := by
  unfold OnlyAsked at *
  rw [g]
  generalize u.answers = b, u.events = e
  rw [h]

theorem onlyAsked_note (s : State) (e : Event) : OnlyAsked s (s.note e) := rfl

theorem onlyAsked_readCycle (s : State) (a : Word) (n : Nat) : OnlyAsked s (s.readCycle a n) := by
  unfold State.readCycle; split
  · exact onlyAsked_note ..
  · rfl

/-- A fold of steps that only ask the platform only asks it. -/
theorem onlyAsked_foldl {α : Type} (f : State → α → State) (h : ∀ u x, OnlyAsked u (f u x)) (l : List α) (s : State) :
    OnlyAsked s (l.foldl f s) := by
  induction l generalizing s with
  | nil => rfl
  | cons x l ih => exact onlyAsked_trans (h s x) (ih _)

theorem onlyAsked_byteReads (s : State) (a : Word) (k : Nat) : OnlyAsked s (s.byteReads a k) :=
  onlyAsked_foldl _ (fun _ _ => onlyAsked_readCycle ..) _ _

/-- MemRead changes nothing but what the platform sees and has still to say. -/
theorem onlyAsked_afterRead (s : State) (a : Word) (n : Nat) : OnlyAsked s (s.afterRead a n) := by
  unfold State.afterRead; split
  · exact onlyAsked_readCycle ..
  · exact onlyAsked_byteReads ..

theorem onlyAsked_fetchAfter (s : State) (k : Nat) : OnlyAsked s (s.fetchAfter k) := rfl

@[simp] theorem afterRead_gr (s : State) (a : Word) (n : Nat) : (s.afterRead a n).gr = s.gr := by
  rw [onlyAsked_afterRead s a n]
@[simp] theorem afterRead_pc (s : State) (a : Word) (n : Nat) : (s.afterRead a n).pc = s.pc := by
  rw [onlyAsked_afterRead s a n]
@[simp] theorem afterRead_psw (s : State) (a : Word) (n : Nat) : (s.afterRead a n).psw = s.psw := by
  rw [onlyAsked_afterRead s a n]
@[simp] theorem afterRead_sys (s : State) (a : Word) (n : Nat) : (s.afterRead a n).sys = s.sys := by
  rw [onlyAsked_afterRead s a n]
@[simp] theorem afterRead_mem (s : State) (a : Word) (n : Nat) : (s.afterRead a n).mem = s.mem := by
  rw [onlyAsked_afterRead s a n]
@[simp] theorem afterRead_halted (s : State) (a : Word) (n : Nat) : (s.afterRead a n).halted = s.halted := by
  rw [onlyAsked_afterRead s a n]
@[simp] theorem afterRead_impOld (s : State) (a : Word) (n : Nat) : (s.afterRead a n).impOld = s.impOld := by
  rw [onlyAsked_afterRead s a n]
@[simp] theorem afterRead_impLag (s : State) (a : Word) (n : Nat) : (s.afterRead a n).impLag = s.impLag := by
  rw [onlyAsked_afterRead s a n]
@[simp] theorem afterRead_free (s : State) (a : Word) (n : Nat) : (s.afterRead a n).free = s.free := by
  rw [onlyAsked_afterRead s a n]
@[simp] theorem afterRead_product (s : State) (a : Word) (n : Nat) : (s.afterRead a n).product = s.product := by
  rw [onlyAsked_afterRead s a n]
@[simp] theorem afterRead_readReg (s : State) (a : Word) (n : Nat) (q : Reg) :
    (s.afterRead a n).readReg q = s.readReg q := by
  rw [onlyAsked_afterRead s a n]; rfl
@[simp] theorem afterRead_read8 (s : State) (a : Word) (n : Nat) (x : Word) : (s.afterRead a n).read8 x = s.read8 x := by
  rw [onlyAsked_afterRead s a n]; rfl

/-! ## Plain memory (R121) -/

theorem anyIo_plain {s : State} {a : Word} {n : Nat} : s.anyIo a n = false ↔ Plain s a n := by
  simp [State.anyIo, Plain]

/-- Part of plain memory is plain memory. -/
theorem plain_byte {s : State} {a : Word} {n k : Nat} (h : Plain s a n) (hk : k < n) :
    Plain s (a + BitVec.ofNat 32 k) 1 := by
  intro j hj
  have : j = 0 := by omega
  subst this
  simpa using h k hk

theorem readCycle_plain {s : State} {a : Word} {n : Nat} (h : Plain s a n) : s.readCycle a n = s := by
  simp [State.readCycle, anyIo_plain.mpr h]

theorem byteReads_plain {s : State} {a : Word} {n k : Nat} (h : Plain s a n) (hk : k ≤ n) : s.byteReads a k = s := by
  unfold State.byteReads
  induction k with
  | zero => rfl
  | succ k ih =>
    rw [List.range_succ, List.foldl_append, ih (by omega)]
    exact readCycle_plain (plain_byte h (by omega))

theorem cycleError_plain {s : State} {a : Word} {n : Nat} (h : Plain s a n) : s.cycleError a n = none := by
  simp [State.cycleError, anyIo_plain.mpr h]

theorem byteError_plain {s : State} {a : Word} {n k : Nat} (h : Plain s a n) (hk : k < n) : s.byteError a k = none := by
  rw [State.byteError, byteReads_plain h (Nat.le_of_lt hk)]
  exact cycleError_plain (plain_byte h hk)

/-- The platform reports no error for an access of plain memory. -/
theorem busError_plain {s : State} {a : Word} {n : Nat} (h : Plain s a n) : s.busError a n = none := by
  unfold State.busError; split
  · exact cycleError_plain h
  · rw [List.findSome?_eq_none_iff]
    intro k hk
    exact byteError_plain h (by simpa using hk)

/-! ## How far an access comes (R235(4), log 43) -/

theorem cyclesUntil_le (error : Nat → Bool) (n : Nat) : cyclesUntil error n ≤ n := Nat.min_le_right ..

/-- Without an error every cycle is made. -/
theorem cyclesUntil_none {error : Nat → Bool} {n : Nat} (h : ∀ k, k < n → error k = false) : cyclesUntil error n = n := by
  have : (List.range n).findIdx error = n := by
    have e := List.findIdx_eq_length_of_false (xs := List.range n) (p := error) (by
      intro x hx; exact h x (by simpa using hx))
    rwa [List.length_range] at e
  rw [cyclesUntil, this]; omega

/-- The first cycle with an error is the last. -/
theorem cyclesUntil_some {error : Nat → Bool} {n k : Nat} (hk : k < n) (h : error k = true)
    (hj : ∀ j, j < k → error j = false) : cyclesUntil error n = k + 1 := by
  have : (List.range n).findIdx error = k := by
    rw [List.findIdx_eq (by simpa using hk)]
    refine ⟨by simpa using h, fun j hjk => ?_⟩
    simpa using hj j hjk
  rw [cyclesUntil, this]; omega

/-- The first error of a list of cycles. -/
theorem findSome_range {α : Type} {f : Nat → Option α} {n k : Nat} {e : α} (hk : k < n) (h : f k = some e)
    (hj : ∀ j, j < k → f j = none) : (List.range n).findSome? f = some e := by
  have hs : List.range n = List.range k ++ k :: (List.range n).drop (k + 1) := by
    refine (List.take_append_drop k (List.range n)).symm.trans ?_
    rw [List.drop_eq_getElem_cons (by simpa using hk)]
    simp [List.take_range, Nat.min_eq_left (Nat.le_of_lt hk)]
  have h0 : (List.range k).findSome? f = none := by
    rw [List.findSome?_eq_none_iff]; intro j hj'; exact hj j (by simpa using hj')
  rw [hs, List.findSome?_append, h0]; simp [h]

/-- An access without error makes all its cycles. -/
theorem byteCycles_of_ok {s : State} {a : Word} {n : Nat} (ha : a.toNat % n ≠ 0) (h : s.busError a n = none) :
    s.byteCycles a n = n := by
  unfold State.busError at h
  rw [if_neg ha, List.findSome?_eq_none_iff] at h
  exact cyclesUntil_none fun k hk => by rw [h k (by simpa using hk)]; rfl

/-- MemRead of plain memory changes nothing. -/
theorem afterRead_plain {s : State} {a : Word} {n : Nat} (h : Plain s a n) : s.afterRead a n = s := by
  unfold State.afterRead; split
  · exact readCycle_plain h
  · exact byteReads_plain h (cyclesUntil_le ..)

/-- MemRead of plain memory gives the bytes that stand there. -/
theorem busByte_plain {s : State} {a : Word} {n k : Nat} (h : Plain s a n) (hk : k < n) :
    s.busByte a n k = s.read8 (a + BitVec.ofNat 32 k) := by
  unfold State.busByte State.cycleByte; split
  · rw [anyIo_plain.mpr h]; rfl
  · rw [byteReads_plain h (Nat.le_of_lt hk), anyIo_plain.mpr (plain_byte h hk)]; simp

@[simp] theorem byteOf_setWidth (b : Byte) : byteOf (b.setWidth 32) 0 = b := by
  apply BitVec.eq_of_getLsbD_eq; intro i hi; simp [byteOf, hi]; intro h; omega

theorem writeCycle_plain1 {s : State} {a : Word} (v : Word) (h : Plain s a 1) :
    s.writeCycle a 1 v = s.write8 a (byteOf v 0) := by
  simp [State.writeCycle, anyIo_plain.mpr h]

theorem plain_write8 {s : State} {a x : Word} {n : Nat} {b : Byte} : Plain (s.write8 x b) a n ↔ Plain s a n := Iff.rfl

/-- A misaligned MemWrite without error writes all its bytes. -/
theorem busWrite_ok {s : State} {a : Word} {n : Nat} (v : Word) (ha : a.toNat % n ≠ 0) (h : s.busError a n = none) :
    s.busWrite a n v = s.byteWrites a v n := by
  rw [State.busWrite, if_neg ha, h]

theorem busWrite_plain1 {s : State} {a : Word} (v : Word) (h : Plain s a 1) :
    s.busWrite a 1 v = s.write8 a (byteOf v 0) := by
  simp [State.busWrite, Nat.mod_one, writeCycle_plain1 v h]

theorem busWrite_plain2 {s : State} {a : Word} (v : Word) (h : Plain s a 2) : s.busWrite a 2 v = s.write16 a v := by
  by_cases ha : a.toNat % 2 = 0
  · simp [State.busWrite, ha, State.writeCycle, anyIo_plain.mpr h]
  · have h0 := plain_byte h (k := 0) (by omega)
    have h1 := plain_byte h (k := 1) (by omega)
    rw [busWrite_ok v ha (busError_plain h)]
    simp only [State.byteWrites, List.range, List.range.loop, List.foldl]
    rw [writeCycle_plain1 _ h0, writeCycle_plain1 _ (plain_write8.mpr h1)]
    simp [State.write16]

theorem busWrite_plain4 {s : State} {a : Word} (v : Word) (h : Plain s a 4) : s.busWrite a 4 v = s.write32 a v := by
  by_cases ha : a.toNat % 4 = 0
  · simp [State.busWrite, ha, State.writeCycle, anyIo_plain.mpr h]
  · have h0 := plain_byte h (k := 0) (by omega)
    have h1 := plain_byte h (k := 1) (by omega)
    have h2 := plain_byte h (k := 2) (by omega)
    have h3 := plain_byte h (k := 3) (by omega)
    rw [busWrite_ok v ha (busError_plain h)]
    simp only [State.byteWrites, List.range, List.range.loop, List.foldl]
    rw [writeCycle_plain1 _ h0, writeCycle_plain1 _ (plain_write8.mpr h1),
      writeCycle_plain1 _ (plain_write8.mpr (plain_write8.mpr h2)),
      writeCycle_plain1 _ (plain_write8.mpr (plain_write8.mpr (plain_write8.mpr h3)))]
    simp [State.write32]

/-! ## The platform's addresses (R110, R121) -/

/-- An aligned read where the platform answers asks it once. -/
theorem afterRead_io {s : State} {a : Word} {n : Nat} (ha : a.toNat % n = 0) (h : ¬Plain s a n) :
    s.afterRead a n = s.note (.busRead a n) := by
  have : s.anyIo a n = true := by simpa using mt anyIo_plain.mp h
  simp [State.afterRead, State.readCycle, ha, this]

/-- An aligned read where the platform answers gives the bytes of its answer. -/
theorem busByte_io {s : State} {a : Word} {n : Nat} (k : Nat) (ha : a.toNat % n = 0) (h : ¬Plain s a n) :
    s.busByte a n k = byteOf s.answer.value k := by
  have : s.anyIo a n = true := by simpa using mt anyIo_plain.mp h
  simp [State.busByte, State.cycleByte, ha, this]

/-- An aligned write where the platform answers tells it once. -/
theorem busWrite_io {s : State} {a : Word} {n : Nat} (v : Word) (ha : a.toNat % n = 0) (h : ¬Plain s a n) :
    s.busWrite a n v = s.note (.busWrite a n (lowBytes n v)) := by
  have : s.anyIo a n = true := by simpa using mt anyIo_plain.mp h
  simp [State.busWrite, State.writeCycle, ha, this]

/-- The error of an aligned access where the platform answers is that of its answer. -/
theorem busError_io {s : State} {a : Word} {n : Nat} (ha : a.toNat % n = 0) (h : ¬Plain s a n) :
    s.busError a n = s.answer.error := by
  have : s.anyIo a n = true := by simpa using mt anyIo_plain.mp h
  simp [State.busError, State.cycleError, ha, this]

/-! ## Writes -/

theorem onlyStored_of_asked {a : Word} {n : Nat} {s u : State} (h : OnlyAsked s u) : OnlyStored a n s u := by
  have hm : u.mem = s.mem := by rw [h]
  exact ⟨fun x _ => by simp only [State.read8, hm], by rw [hm]; exact h⟩

theorem onlyStored_trans {a : Word} {n : Nat} {s t u : State} (h : OnlyStored a n s t) (g : OnlyStored a n t u) :
    OnlyStored a n s u := by
  refine ⟨fun x hx => (g.1 x hx).trans (h.1 x hx), ?_⟩
  have h2 := h.2; have g2 := g.2
  unfold OnlyAsked at *
  rw [g2]
  generalize u.answers = b, u.events = e, u.mem = m
  rw [h2]

theorem onlyStored_mono {a b : Word} {n m : Nat} {s u : State} (h : OnlyStored a n s u)
    (hs : ∀ k, k < n → ∃ j, j < m ∧ a + BitVec.ofNat 32 k = b + BitVec.ofNat 32 j) : OnlyStored b m s u := by
  refine ⟨fun x hx => h.1 x fun k hk e => ?_, h.2⟩
  obtain ⟨j, hj, hb⟩ := hs k hk
  exact hx j hj (e.trans hb)

/-- One write cycle changes at most its bytes and what the platform sees. -/
theorem onlyStored_writeCycle (s : State) (a : Word) (n : Nat) (v : Word) (hn : n = 1 ∨ n = 2 ∨ n = 4) :
    OnlyStored a n s (s.writeCycle a n v) := by
  unfold State.writeCycle; split
  · exact onlyStored_of_asked (onlyAsked_note ..)
  · rcases hn with rfl | rfl | rfl
    · refine ⟨fun x hx => ?_, rfl⟩
      have := hx 0 (by omega); simp at this
      simp [read8_write8, this]
    · exact ⟨fun x hx => read8_write16_other s a v x hx, rfl⟩
    · exact ⟨fun x hx => read8_write32_other s a v x hx, rfl⟩

theorem onlyStored_byteWrites (s : State) (a v : Word) (n k : Nat) (hk : k ≤ n) : OnlyStored a n s (s.byteWrites a v k) := by
  unfold State.byteWrites
  induction k with
  | zero => exact onlyStored_of_asked rfl
  | succ k ih =>
    rw [List.range_succ, List.foldl_append]
    refine onlyStored_trans (ih (by omega)) (onlyStored_mono (onlyStored_writeCycle _ _ 1 _ (.inl rfl)) ?_)
    intro j hj
    have : j = 0 := by omega
    exact ⟨k, by omega, by simp [this]⟩

/-- MemWrite changes at most its bytes and what the platform sees. -/
theorem onlyStored_busWrite (s : State) (a : Word) (n : Nat) (v : Word) (hn : n = 1 ∨ n = 2 ∨ n = 4) :
    OnlyStored a n s (s.busWrite a n v) := by
  unfold State.busWrite; split
  · exact onlyStored_writeCycle s a n v hn
  · split
    · exact onlyStored_byteWrites s a v n n (Nat.le_refl _)
    · have h := (onlyStored_byteWrites s a v n _ (cyclesUntil_le (fun k => (s.byteError a k).isSome) n)).2
      refine onlyStored_of_asked ?_
      unfold OnlyAsked at *
      rw [State.byteCycles]
      rw [h]

/-- MemWrite for which the platform reports an error writes no byte of plain memory (R235(4)). -/
theorem onlyAsked_busWrite {s : State} {a : Word} {n : Nat} (v : Word) {e : AccessError}
    (h : s.busError a n = some e) : OnlyAsked s (s.busWrite a n v) := by
  by_cases ha : a.toNat % n = 0
  · unfold State.busError at h
    rw [if_pos ha, State.cycleError] at h
    split at h
    · rename_i hi
      have : s.busWrite a n v = s.note (.busWrite a n (lowBytes n v)) := by simp [State.busWrite, State.writeCycle, ha, hi]
      rw [this]; exact onlyAsked_note ..
    · cases h
  · have h1 := (onlyStored_byteWrites s a v n _ (cyclesUntil_le (fun k => (s.byteError a k).isSome) n)).2
    rw [State.busWrite, if_neg ha, h]
    unfold OnlyAsked at *
    show ({ s.byteWrites a v (s.byteCycles a n) with mem := s.mem } : State) = _
    rw [State.byteCycles]
    rw [h1]

/-- A write cycle keeps the canonical form of memory. -/
theorem wf_writeCycle {s : State} (a : Word) (n : Nat) (v : Word) (h : Memory.wf s.mem = true) :
    Memory.wf (s.writeCycle a n v).mem = true := by
  unfold State.writeCycle; split
  · simpa using h
  · split
    · exact wf_write8 _ _ h
    · exact wf_write16 _ _ h
    · exact wf_write32 _ _ h

theorem wf_byteWrites {s : State} (a v : Word) (k : Nat) (h : Memory.wf s.mem = true) :
    Memory.wf (s.byteWrites a v k).mem = true := by
  unfold State.byteWrites
  generalize List.range k = l
  induction l generalizing s with
  | nil => exact h
  | cons k l ih => exact ih (wf_writeCycle _ _ _ h)

/-- MemWrite keeps the canonical form of memory. -/
theorem wf_busWrite {s : State} (a : Word) (n : Nat) (v : Word) (h : Memory.wf s.mem = true) :
    Memory.wf (s.busWrite a n v).mem = true := by
  unfold State.busWrite; split
  · exact wf_writeCycle _ _ _ h
  · split
    · exact wf_byteWrites _ _ _ h
    · exact h

@[simp] theorem busWrite_product (s : State) (a : Word) (n : Nat) (v : Word) : (s.busWrite a n v).product = s.product := by
  have hc : ∀ (u : State) (x : Word) (k : Nat) (w : Word), (u.writeCycle x k w).product = u.product := by
    intro u x k w; unfold State.writeCycle; split
    · simp
    · split <;> rfl
  have hb : ∀ k : Nat, (s.byteWrites a v k).product = s.product := by
    intro k
    unfold State.byteWrites
    generalize List.range k = l
    induction l generalizing s with
    | nil => rfl
    | cons k l ih => exact (ih _).trans (hc ..)
  unfold State.busWrite; split
  · exact hc ..
  · split
    · exact hb _
    · exact hb _

/-! ## The fetch (R123) -/

theorem ioHalves_plain {s : State} {n : Nat} (h : ∀ k, k < n → Plain s (s.fetchAddr k) 2) : s.ioHalves n = [] := by
  simp only [State.ioHalves, List.filter_eq_nil_iff, List.mem_range]
  intro k hk
  simp [anyIo_plain.mpr (h k hk)]

/-- The fetch of plain memory changes nothing. -/
theorem fetchAfter_plain {s : State} {n : Nat} (h : ∀ k, k < n → Plain s (s.fetchAddr k) 2) : s.fetchAfter n = s := by
  simp [State.fetchAfter, ioHalves_plain h]

/-- No more halfwords may be fetched than the instruction has. -/
theorem fetchable_le (s : State) : 2 * s.fetchable ≤ s.fetchLength := by
  have h : s.fetchable ≤ s.fetchLength / 2 := by
    simpa [State.fetchable] using
      (List.takeWhile_sublist (fun k => !s.halfViolates k) (l := List.range (s.fetchLength / 2))).length_le
  omega

theorem fetchCount_le (s : State) : 2 * s.fetchCount ≤ s.fetchLength := by
  have h1 := fetchable_le s
  have h2 := cyclesUntil_le (fun k => (s.halfError k).isSome) s.fetchable
  unfold State.fetchCount; omega

theorem fetchDone_plain {s : State} (h : PlainCode s) : s.fetchDone = s :=
  fetchAfter_plain fun k hk => h k (by have := fetchCount_le s; omega)

theorem halfError_plain {s : State} (h : PlainCode s) {k : Nat} (hk : 2 * k < s.fetchLength) : s.halfError k = none := by
  have hi : (s.fetchAfter k).anyIo (s.fetchAddr k) 2 = s.anyIo (s.fetchAddr k) 2 := rfl
  simp [State.halfError, State.cycleError, hi, anyIo_plain.mpr (h k hk)]

/-- The fetch of plain memory has the error that the sample names, and no other. -/
theorem fetchError_plain {s : State} (h : PlainCode s) (mep : Option (Fin 4)) : s.fetchError mep = mep.map .mep := by
  have : (List.range s.fetchable).findSome? s.halfError = none := by
    rw [List.findSome?_eq_none_iff]
    intro k hk
    have := fetchable_le s
    exact halfError_plain h (by simp at hk; omega)
  cases mep <;> simp [State.fetchError, this]

/-- Where nothing violates, every halfword may be fetched. -/
theorem fetchable_of_permitted {s : State} (h : s.fetchViolates = false) : s.fetchable = s.fetchLength / 2 := by
  have key : ∀ l : List Nat, (∀ k ∈ l, s.halfViolates k = false) → l.takeWhile (fun k => !s.halfViolates k) = l := by
    intro l hl
    induction l with
    | nil => rfl
    | cons k l ih => simp [hl k (by simp), ih fun j hj => hl j (by simp [hj])]
  simp only [State.fetchViolates, List.any_eq_false] at h
  rw [State.fetchable, key _ fun k hk => by simpa using h k hk, List.length_range]

/-- Where nothing violates and no error is reported, every halfword is fetched. -/
theorem fetchCount_of_permitted {s : State} {mep : Option (Fin 4)} (h : s.fetchViolates = false)
    (he : s.fetchError mep = none) : s.fetchCount = s.fetchLength / 2 := by
  rw [← fetchable_of_permitted h]
  refine cyclesUntil_none fun k hk => ?_
  unfold State.fetchError at he
  have h2 : (List.range s.fetchable).findSome? s.halfError = none := by
    cases mep with
    | none => simpa using he
    | some _ => simp at he
  rw [List.findSome?_eq_none_iff] at h2
  rw [h2 k (by simpa using hk)]; rfl

/-- Where nothing violates and the sample names no MEP, the first error that is reported counts and ends the fetch. -/
theorem fetchError_first {s : State} {k : Nat} {e : AccessError} (h : s.fetchViolates = false) (hk : 2 * k < s.fetchLength)
    (he : s.halfError k = some e) (hj : ∀ j, j < k → s.halfError j = none) :
    s.fetchError none = some e ∧ s.fetchCount = k + 1 := by
  have hf := fetchable_of_permitted h
  have hk' : k < s.fetchable := by
    have : s.fetchLength % 2 = 0 := by
      unfold State.fetchLength instrBytes; repeat' split
      all_goals rfl
    omega
  refine ⟨by simpa [State.fetchError] using findSome_range hk' he hj, ?_⟩
  exact cyclesUntil_some hk' (by rw [he]; rfl) fun j hjk => by rw [hj j hjk]; rfl

end Sys2Proof.Laws
end

