-- ==== Sys2Proof/Laws/Ops.lean ====
section
/-! SUPPORT. What each shared operation of the machine can do, said once: registers, PSW bits, flags, masks, the data access,
taking an exception, returning. -/

namespace Sys2Proof.Laws

open Sys2Proof.Machine

/-! ## General registers (R21) -/

@[simp] theorem readReg_zero (s : State) : s.readReg 0 = 0 := rfl

/-- What a register write does to every register. -/
theorem readReg_writeReg (s : State) (r q : Reg) (v : Word) :
    (s.writeReg r v).readReg q = if q = r then Safety.written r v else s.readReg q := by
  have hg : r ≠ q → r.toNat ≠ q.toNat := fun h e => h (BitVec.toNat_inj.mp e)
  unfold State.readReg State.writeReg Safety.written
  by_cases hr : r = 0
  · grind
  · by_cases h : q = r
    · subst h; simp only [hr, if_false, if_true]; simp
    · have := hg (Ne.symm h)
      simp only [hr, h, if_false]; rw [Vector.getElem_set_ne _ _ this]

@[simp] theorem readReg_writeReg_same (s : State) (r : Reg) (v : Word) :
    (s.writeReg r v).readReg r = Safety.written r v := by simp [readReg_writeReg]

theorem readReg_writeReg_other (s : State) {r q : Reg} (v : Word) (h : q ≠ r) :
    (s.writeReg r v).readReg q = s.readReg q := by simp [readReg_writeReg, h]

/-- A write to r0 changes nothing. -/
@[simp] theorem writeReg_r0 (s : State) (v : Word) : s.writeReg 0 v = s := rfl

@[simp] theorem written_readReg (s : State) (r : Reg) : Safety.written r (s.readReg r) = s.readReg r := by
  simp only [Safety.written, State.readReg]; grind

@[simp] theorem written_written (r : Reg) (v : Word) : Safety.written r (Safety.written r v) = Safety.written r v := by
  simp only [Safety.written]; grind

/-- r0 keeps its 0 under every register write. -/
theorem writeReg_gr0 (s : State) (r : Reg) (v : Word) (h : s.gr[0] = 0) : (s.writeReg r v).gr[0] = 0 := by
  simp only [State.writeReg]
  split
  · exact h
  · rename_i hr
    have : r.toNat ≠ 0 := fun e => hr (BitVec.toNat_inj.mp (by simpa using e))
    simp [Vector.getElem_set_ne _ _ this, h]

/-! ## One bit of a word -/

theorem getLsbD_setBit (v : Word) (i k : Nat) (b : Bool) :
    (setBit v i b).getLsbD k = if k = i ∧ k < 32 then b else v.getLsbD k := by
  unfold setBit
  cases b <;> by_cases hk : k < 32 <;> simp [BitVec.getLsbD_shiftLeft, hk] <;> grind

@[simp] theorem getLsbD_setBit_same (v : Word) (i : Nat) (b : Bool) (h : i < 32) : (setBit v i b).getLsbD i = b := by
  rw [getLsbD_setBit]; simp only [h, and_self, if_true]

theorem getLsbD_setBit_other (v : Word) {i k : Nat} (b : Bool) (h : k ≠ i) :
    (setBit v i b).getLsbD k = v.getLsbD k := by simp [getLsbD_setBit, h]

/-! ## Flags -/

/-- What the writing of the four flags does to every PSW bit. -/
theorem withFlags_bit (s : State) (f : Flags) (k : Nat) :
    (s.withFlags f).psw.getLsbD k =
      if k = 0 then f.z else if k = 1 then f.s else if k = 2 then f.ov else if k = 3 then f.cy else s.psw.getLsbD k := by
  simp only [State.withFlags, setPswBit_psw, getLsbD_setBit]
  grind

/-- What the writing of the flags of a saturated operation does to every PSW bit (R310). -/
theorem withSatFlags_bit (s : State) (f : Flags) (k : Nat) :
    (s.withSatFlags f).psw.getLsbD k =
      if k = 4 then s.flagSAT || f.ov else (s.withFlags f).psw.getLsbD k := by
  simp only [State.withSatFlags, setPswBit_psw, getLsbD_setBit]
  grind

/-- What the writing of logic flags does to every PSW bit: CY is kept (R338). -/
theorem withLogicFlags_bit (s : State) (r : Word) (k : Nat) :
    (s.withLogicFlags r).psw.getLsbD k =
      if k = 0 then r == 0 else if k = 1 then r.msb else if k = 2 then false else s.psw.getLsbD k := by
  simp only [State.withLogicFlags, withFlags_bit, State.flagCY]
  grind

/-- What the writing of the flags of a division does to every PSW bit: CY is kept (R398). -/
theorem withDivFlags_bit (s : State) (ov sg z : Bool) (k : Nat) :
    (s.withDivFlags ov sg z).psw.getLsbD k =
      if k = 0 then z else if k = 1 then sg else if k = 2 then ov else s.psw.getLsbD k := by
  simp only [State.withDivFlags, withFlags_bit, State.flagCY]
  grind

/-- What testing a bit does to every PSW bit (R435). -/
theorem testBit_bit (s : State) (token : Byte) (k j : Nat) :
    (s.testBit token k).psw.getLsbD j = if j = 0 then !token.getLsbD k else s.psw.getLsbD j := by
  simp only [State.testBit, setPswBit_psw, getLsbD_setBit]
  grind

/-! ## Sums and differences as bit vectors (R293, R294) -/

theorem addWord_false (a b : Word) : addWord a b false = a + b := by
  apply BitVec.eq_of_toNat_eq; simp [addWord, bit]

theorem addWord_true (a b : Word) : addWord a b true = a + b + 1 := by
  apply BitVec.eq_of_toNat_eq; simp [addWord, bit]

theorem subWord_false (a b : Word) : subWord a b false = a - b := by
  apply BitVec.eq_of_toNat_eq
  simp only [subWord, bit, BitVec.toNat_ofInt, BitVec.toNat_sub]
  have := a.isLt; have := b.isLt; simp only [Bool.false_eq_true, if_false]; omega

theorem subWord_true (a b : Word) : subWord a b true = a - b - 1 := by
  apply BitVec.eq_of_toNat_eq
  have h1 : BitVec.toNat (1 : Word) = 1 := rfl
  simp only [subWord, bit, BitVec.toNat_ofInt, BitVec.toNat_sub]
  rw [h1]
  have := a.isLt; have := b.isLt; simp only [if_true]; omega

/-! ## Masks (R24, R31, R61) -/

/-- The bits of a PC value: bit 0 is 0, bits 31-26 are the copy of bit 25. -/
theorem pcmask_bit (v : Word) (k : Nat) :
    (pcmask v).getLsbD k = (decide (k < 32 ∧ k ≠ 0) && v.getLsbD (min k 25)) := by
  simp only [pcmask, BitVec.getLsbD_signExtend, BitVec.getLsbD_append, BitVec.getLsbD_extractLsb',
    BitVec.msb_eq_getLsbD_last]
  by_cases h0 : k = 0
  · subst h0; simp
  · by_cases h : k < 26
    · have h1 : min k 25 = k := by omega
      have h2 : 1 + (k - 1) = k := by omega
      have h3 : k - 1 < 25 := by omega
      have h4 : k < 32 := by omega
      have h5 : 1 ≤ k := by omega
      simp [h, h1, h2, h3, h4, h0]
    · have h1 : min k 25 = 25 := by omega
      simp [h, h1, h0]

/-- The bits of a saved PC: bits 31-26 are the copy of bit 25. -/
theorem sext26_bit (v : Word) (k : Nat) : (sext26 v).getLsbD k = (decide (k < 32) && v.getLsbD (min k 25)) := by
  simp only [sext26, BitVec.getLsbD_signExtend, BitVec.getLsbD_extractLsb', BitVec.msb_eq_getLsbD_last]
  by_cases h : k < 26
  · have h1 : min k 25 = k := by omega
    simp [h, h1]
  · have h1 : min k 25 = 25 := by omega
    simp [h, h1]

/-- The bits of a handler base address. -/
theorem baseMask_bit (v : Word) (k : Nat) :
    (baseMask v).getLsbD k = (decide (k < 32 ∧ 13 ≤ k) && v.getLsbD (min k 25)) := by
  simp only [baseMask, BitVec.getLsbD_signExtend, BitVec.getLsbD_append, BitVec.getLsbD_extractLsb',
    BitVec.msb_eq_getLsbD_last]
  by_cases h0 : k < 13
  · have h1 : k < 26 := by omega
    have h2 : ¬ (13 ≤ k) := by omega
    simp [h0, h1, h2]
  · by_cases h : k < 26
    · have h1 : min k 25 = k := by omega
      have h2 : 13 + (k - 13) = k := by omega
      have h3 : k - 13 < 13 := by omega
      have h4 : 13 ≤ k := by omega
      simp [h, h0, h1, h2, h3, h4]
    · have h1 : min k 25 = 25 := by omega
      have h4 : 13 ≤ k := by omega
      simp [h, h1, h4]

@[simp] theorem pcmask_pcmask (v : Word) : pcmask (pcmask v) = pcmask v := by
  apply BitVec.eq_of_getLsbD_eq; intro i hi; simp only [pcmask_bit]; grind

@[simp] theorem sext26_sext26 (v : Word) : sext26 (sext26 v) = sext26 v := by
  apply BitVec.eq_of_getLsbD_eq; intro i hi; simp only [sext26_bit]; grind

@[simp] theorem pcmask_sext26 (v : Word) : pcmask (sext26 v) = pcmask v := by
  apply BitVec.eq_of_getLsbD_eq; intro i hi; simp only [sext26_bit, pcmask_bit]; grind

@[simp] theorem sext26_pcmask (v : Word) : sext26 (pcmask v) = pcmask v := by
  apply BitVec.eq_of_getLsbD_eq; intro i hi; simp only [sext26_bit, pcmask_bit]; grind

@[simp] theorem baseMask_baseMask (v : Word) : baseMask (baseMask v) = baseMask v := by
  apply BitVec.eq_of_getLsbD_eq; intro i hi; simp only [baseMask_bit]; grind

/-! ## The PSW that MPM allows (R42) -/

theorem mask_bit {w : Word} {p : Nat → Prop} [DecidablePred p]
    (h : ∀ j : Fin 32, w.getLsbD j.val = decide (p j.val)) (k : Nat) (hp : ∀ j, p j → j < 32 := by omega) :
    w.getLsbD k = decide (p k) := by
  by_cases hk : k < 32
  · exact h ⟨k, hk⟩
  · have : ¬ p k := fun hpk => hk (hp k hpk)
    simp [BitVec.getLsbD_of_ge _ _ (Nat.le_of_not_lt hk), this]

/-- The bits of a legal PSW. -/
theorem legalPsw_bit (m v : Word) (k : Nat) :
    (legalPsw m v).getLsbD k =
      (v.getLsbD k && (decide (k < 8 ∨ (9 ≤ k ∧ k < 12)) || (m.getLsbD 0 && decide (k = 16 ∨ k = 17))
        || (m.getLsbD 0 && m.getLsbD 1 && decide (k = 18)))) := by
  have h1 : (0x00000EFF#32).getLsbD k = decide (k < 8 ∨ (9 ≤ k ∧ k < 12)) := mask_bit (p := fun k => k < 8 ∨ (9 ≤ k ∧ k < 12)) (by decide) k
  have h2 : (0x00030000#32).getLsbD k = decide (k = 16 ∨ k = 17) := mask_bit (p := fun k => k = 16 ∨ k = 17) (by decide) k
  have h3 : (0x00040000#32).getLsbD k = decide (k = 18) := mask_bit (p := fun k => k = 18) (by decide) k
  unfold legalPsw
  cases m.getLsbD 0 <;> cases m.getLsbD 1 <;> simp [h1, h2, h3] <;> grind

@[simp] theorem legalPsw_legalPsw (m v : Word) : legalPsw m (legalPsw m v) = legalPsw m v := by
  apply BitVec.eq_of_getLsbD_eq; intro i hi; simp only [legalPsw_bit]; grind

/-! ## The data access (R120, R144) -/

@[simp] theorem access_of_permitted {s : State} {acc : Access} (d : State) (h : s.violates acc = false) :
    s.access acc d = d := by simp [State.access, h]

@[simp] theorem access_of_violation {s : State} {acc : Access} (d : State) (h : s.violates acc = true) :
    s.access acc d = s.takeMdp acc := by simp [State.access, h]

/-- Nothing violates while PSW.DMP = 0 (R144). -/
theorem violates_of_dmp_off {s : State} (acc : Access) (h : s.pswDMP = false) : s.violates acc = false := by
  simp [State.violates, h]

/-! ## Taking an exception -/

/-- What MDP leaves: the violation recorded, the context saved in the FE registers, the handler at EH_BASE + 30H (R551). -/
theorem takeMdp_spec (s : State) (acc : Access) :
    (s.takeMdp acc).pc = pcmask (s.sys.ehBase + 0x30) ∧ (s.takeMdp acc).sys.fepc = pcmask s.pc ∧
      (s.takeMdp acc).sys.fepsw = s.psw ∧ (s.takeMdp acc).sys.feic = 0x431 ∧ (s.takeMdp acc).sys.vmtid = s.sys.tid ∧
      (s.takeMdp acc).sys.vmadr = acc.addr ∧ (s.takeMdp acc).sys.vmecr = acc.vmecr := ⟨rfl, rfl, rfl, rfl, rfl, rfl, rfl⟩

/-- The PSW bits after acceptance (R515, R516, R517). -/
theorem acceptedPsw_bit (s : State) (c : Cause) (k : Nat) :
    (s.acceptedPsw c).getLsbD k =
      if k = 5 then true else if k = 6 then !c.interrupt else if k = 7 ∧ c.level = .fe then true
      else if (k = 16 ∨ k = 17 ∨ k = 18) ∧ (s.aue || c.clears) = true then false else s.psw.getLsbD k := by
  unfold State.acceptedPsw
  cases hl : c.level <;> cases ha : (s.aue || c.clears) <;> simp [getLsbD_setBit] <;> grind

/-! ## Returning (R451, R541) -/

/-- The notification is made only while EP = 0. -/
theorem notifyEnd_events (s : State) : s.notifyEnd.events = if s.pswEP then s.events else .eoi :: s.events := by
  unfold State.notifyEnd; split <;> rfl

end Sys2Proof.Laws
end

