-- ==== Sys2Proof/Laws/Decode.lean ====
section
/-! SUPPORT. Reading a field back from the halfword that the encoder wrote it into, and halfwords from bytes: what the
statements about decoding and encoding rest on. -/

namespace Sys2Proof.Laws

open Sys2Proof

/-! ## Halfwords in bytes (R108) -/

@[simp] theorem halfAt_zero (h : Half) (bs : List Byte) : halfAt (halfBytes h ++ bs) 0 = h := by
  simp only [halfBytes, halfAt, List.cons_append, List.nil_append]
  apply BitVec.eq_of_getLsbD_eq; intro i hi
  simp; grind

theorem halfAt_succ (h : Half) (bs : List Byte) (k : Nat) : halfAt (halfBytes h ++ bs) (k + 1) = halfAt bs k := by
  simp only [halfBytes, halfAt, List.cons_append, List.nil_append]
  have h1 : 2 * (k + 1) = 2 * k + 1 + 1 := by omega
  simp only [h1, List.getD_cons_succ]

/-! ## Fields of a halfword -/

theorem cat2_lo {i j : Nat} (a : BitVec i) (b : BitVec j) (s n : Nat) (h : s + n ≤ j) (hw : j ≤ 16) :
    (cat2 a b).extractLsb' s n = b.extractLsb' s n := by
  apply BitVec.eq_of_getLsbD_eq; intro x hx
  simp [cat2, BitVec.getLsbD_append, hx]; grind

theorem cat2_hi {i j : Nat} (a : BitVec i) (b : BitVec j) (s n : Nat) (h : j ≤ s) (hw : s + n ≤ 16) :
    (cat2 a b).extractLsb' s n = a.extractLsb' (s - j) n := by
  apply BitVec.eq_of_getLsbD_eq; intro x hx
  simp [cat2, BitVec.getLsbD_append, hx]; grind

theorem cat3_lo {i j k : Nat} (a : BitVec i) (b : BitVec j) (c : BitVec k) (s n : Nat) (h : s + n ≤ k) (hw : k ≤ 16) :
    (cat3 a b c).extractLsb' s n = c.extractLsb' s n := cat2_lo (a ++ b) c s n h hw

theorem cat3_mid {i j k : Nat} (a : BitVec i) (b : BitVec j) (c : BitVec k) (s n : Nat) (h : k ≤ s) (h' : s + n ≤ j + k)
    (hw : s + n ≤ 16) : (cat3 a b c).extractLsb' s n = b.extractLsb' (s - k) n := by
  apply BitVec.eq_of_getLsbD_eq; intro x hx
  simp [cat3, BitVec.getLsbD_append, hx]; grind

theorem cat3_hi {i j k : Nat} (a : BitVec i) (b : BitVec j) (c : BitVec k) (s n : Nat) (h : j + k ≤ s)
    (hw : s + n ≤ 16) : (cat3 a b c).extractLsb' s n = a.extractLsb' (s - k - j) n := by
  apply BitVec.eq_of_getLsbD_eq; intro x hx
  simp [cat3, BitVec.getLsbD_append, hx]; grind

theorem cat4_eq {i j k l : Nat} (a : BitVec i) (b : BitVec j) (c : BitVec k) (d : BitVec l) :
    cat4 a b c d = cat3 (a ++ b) c d := rfl

theorem cat4_0 {i j k l : Nat} (a : BitVec i) (b : BitVec j) (c : BitVec k) (d : BitVec l) (s n : Nat) (h : s + n ≤ l)
    (hw : l ≤ 16) : (cat4 a b c d).extractLsb' s n = d.extractLsb' s n := cat3_lo (a ++ b) c d s n h hw

theorem cat4_1 {i j k l : Nat} (a : BitVec i) (b : BitVec j) (c : BitVec k) (d : BitVec l) (s n : Nat) (h : l ≤ s)
    (h' : s + n ≤ k + l) (hw : s + n ≤ 16) : (cat4 a b c d).extractLsb' s n = c.extractLsb' (s - l) n :=
  cat3_mid (a ++ b) c d s n h h' hw

theorem cat4_2 {i j k l : Nat} (a : BitVec i) (b : BitVec j) (c : BitVec k) (d : BitVec l) (s n : Nat) (h : k + l ≤ s)
    (h' : s + n ≤ j + k + l) (hw : s + n ≤ 16) : (cat4 a b c d).extractLsb' s n = b.extractLsb' (s - l - k) n := by
  rw [cat4_eq, cat3_hi _ _ _ _ _ h hw, BitVec.extractLsb'_append_eq_of_add_le (by omega)]

theorem cat4_3 {i j k l : Nat} (a : BitVec i) (b : BitVec j) (c : BitVec k) (d : BitVec l) (s n : Nat)
    (h : j + k + l ≤ s) (hw : s + n ≤ 16) : (cat4 a b c d).extractLsb' s n = a.extractLsb' (s - l - k - j) n := by
  rw [cat4_eq, cat3_hi _ _ _ _ _ (by omega) hw, BitVec.extractLsb'_append_eq_of_le (by omega)]

theorem cat5_eq {i j k l m : Nat} (a : BitVec i) (b : BitVec j) (c : BitVec k) (d : BitVec l) (e : BitVec m) :
    cat5 a b c d e = cat4 (a ++ b) c d e := rfl

theorem cat5_0 {i j k l m : Nat} (a : BitVec i) (b : BitVec j) (c : BitVec k) (d : BitVec l) (e : BitVec m) (s n : Nat)
    (h : s + n ≤ m) (hw : m ≤ 16) : (cat5 a b c d e).extractLsb' s n = e.extractLsb' s n :=
  cat4_0 (a ++ b) c d e s n h hw

theorem cat5_1 {i j k l m : Nat} (a : BitVec i) (b : BitVec j) (c : BitVec k) (d : BitVec l) (e : BitVec m) (s n : Nat)
    (h : m ≤ s) (h' : s + n ≤ l + m) (hw : s + n ≤ 16) :
    (cat5 a b c d e).extractLsb' s n = d.extractLsb' (s - m) n := cat4_1 (a ++ b) c d e s n h h' hw

theorem cat5_2 {i j k l m : Nat} (a : BitVec i) (b : BitVec j) (c : BitVec k) (d : BitVec l) (e : BitVec m) (s n : Nat)
    (h : l + m ≤ s) (h' : s + n ≤ k + l + m) (hw : s + n ≤ 16) :
    (cat5 a b c d e).extractLsb' s n = c.extractLsb' (s - m - l) n := cat4_2 (a ++ b) c d e s n h h' hw

theorem cat5_3 {i j k l m : Nat} (a : BitVec i) (b : BitVec j) (c : BitVec k) (d : BitVec l) (e : BitVec m) (s n : Nat)
    (h : k + l + m ≤ s) (h' : s + n ≤ j + k + l + m) (hw : s + n ≤ 16) :
    (cat5 a b c d e).extractLsb' s n = b.extractLsb' (s - m - l - k) n := by
  rw [cat5_eq, cat4_3 _ _ _ _ _ _ h hw, BitVec.extractLsb'_append_eq_of_add_le (by omega)]

theorem cat5_4 {i j k l m : Nat} (a : BitVec i) (b : BitVec j) (c : BitVec k) (d : BitVec l) (e : BitVec m) (s n : Nat)
    (h : j + k + l + m ≤ s) (hw : s + n ≤ 16) :
    (cat5 a b c d e).extractLsb' s n = a.extractLsb' (s - m - l - k - j) n := by
  rw [cat5_eq, cat4_3 _ _ _ _ _ _ (by omega) hw, BitVec.extractLsb'_append_eq_of_le (by omega)]

/-- Words with a different field are different. -/
theorem ne_of_field {w : Nat} {x c : BitVec w} (s n : Nat) (h : x.extractLsb' s n ≠ c.extractLsb' s n) : x ≠ c :=
  fun e => h (by rw [e])

/-! ## Conditions (R13) -/

@[simp] theorem condOf_condBits (cc : Cond) : condOf (condBits cc) = cc := by cases cc <;> rfl

@[simp] theorem condBits_condOf (b : BitVec 4) : condBits (condOf b) = b := by revert b; decide

end Sys2Proof.Laws
end

