-- ==== Sys2Proof/Laws/Results.lean ====
section
/-! SUPPORT. What each shared operation of the meanings gives, said once in the terms of Safety.lean: a register result, the
flags of an addition, subtraction, saturation, logic, shift, swap, search and division, and what they leave as it was. -/

namespace Sys2Proof.Laws

open Sys2Proof.Machine Sys2Proof.Safety

/-! ## Frames -/

/-- Moving the PC changes nothing that a frame speaks of. -/
theorem frame_setPc (rs : List Reg) (bits : List Nat) (s t : State) (v : Word) :
    Frame rs bits s (t.setPc v) ↔ Frame rs bits s t := Iff.rfl

theorem frame_advance (rs : List Reg) (bits : List Nat) (s t : State) (n : Nat) :
    Frame rs bits s (t.advance n) ↔ Frame rs bits s t := Iff.rfl

theorem falls_advance (n : Nat) (s t : State) (h : t.pc = s.pc) : Falls n s (t.advance n) := by
  simp [Falls, State.advance, State.setPc, h]

/-- Nothing has changed. -/
theorem frame_refl (rs : List Reg) (bits : List Nat) (s : State) : Frame rs bits s s := by
  simp [Frame, RegsExcept, PswExcept, MemSame, RestSame, EnvSame]

/-- A register write keeps every frame that lists the register. -/
theorem frame_writeReg {rs : List Reg} {bits : List Nat} {s t : State} (h : Frame rs bits s t) (r : Reg) (v : Word)
    (hr : r ∈ rs) : Frame rs bits s (t.writeReg r v) := by
  obtain ⟨h1, h2, h3, h4⟩ := h
  refine ⟨?_, by simpa [PswExcept] using h2, by simpa [MemSame] using h3, by simpa [RestSame, EnvSame] using h4⟩
  intro q hq
  rw [readReg_writeReg, if_neg (fun e => hq (by rw [e]; exact hr))]
  exact h1 q hq

/-- Writing one PSW bit keeps every frame that lists it. -/
theorem frame_setPswBit {rs : List Reg} {bits : List Nat} {s t : State} (h : Frame rs bits s t) (k : Nat) (b : Bool)
    (hk : k ∈ bits) : Frame rs bits s (t.setPswBit k b) := by
  obtain ⟨h1, h2, h3, h4⟩ := h
  refine ⟨h1, ?_, h3, h4⟩
  intro j hj
  have : j ≠ k := fun e => hj (by rw [e]; exact hk)
  simpa [State.setPswBit, getLsbD_setBit_other _ _ this] using h2 j hj

/-- A register result. -/
theorem setsReg_writeReg (s : State) (r : Reg) (v : Word) (n : Nat) :
    SetsReg r v n s ((s.writeReg r v).advance n) :=
  ⟨by simp, (frame_advance ..).mpr (frame_writeReg (frame_refl ..) _ _ (by simp)), falls_advance _ _ _ (by simp)⟩

/-! ## Results with flags -/

/-- The four flags keep every frame that lists them. -/
theorem frame_withFlags {rs : List Reg} {bits : List Nat} {s t : State} (h : Frame rs bits s t) (f : Flags)
    (h0 : 0 ∈ bits) (h1 : 1 ∈ bits) (h2 : 2 ∈ bits) (h3 : 3 ∈ bits) : Frame rs bits s (t.withFlags f) :=
  frame_setPswBit (frame_setPswBit (frame_setPswBit (frame_setPswBit h _ _ h3) _ _ h2) _ _ h1) _ _ h0

/-- The flags of a result without CY keep every frame that lists OV, S and Z: CY is written with its old value. -/
theorem frame_withFlags_keep {rs : List Reg} {bits : List Nat} {s t : State} (h : Frame rs bits s t) (ov sg z : Bool)
    (h0 : 0 ∈ bits) (h1 : 1 ∈ bits) (h2 : 2 ∈ bits) :
    Frame rs bits s (t.withFlags { cy := t.flagCY, ov := ov, s := sg, z := z }) := by
  obtain ⟨g1, g2, g3, g4⟩ := h
  refine ⟨g1, ?_, g3, g4⟩
  intro j hj
  rw [withFlags_bit, ← g2 j hj]
  have : j ≠ 0 := fun e => hj (by rw [e]; exact h0)
  have : j ≠ 1 := fun e => hj (by rw [e]; exact h1)
  have : j ≠ 2 := fun e => hj (by rw [e]; exact h2)
  by_cases h : j = 3
  · subst h; simp [State.flagCY]
  · simp [*]

theorem bit_false : bit false = 0 := rfl

theorem bit_true : bit true = 1 := rfl

theorem bit_cond (c : Bool) : bit c = if c then 1 else 0 := rfl

theorem addWord_eq (a b : Word) (c : Bool) : addWord a b c = a + b + BitVec.ofNat 32 (bit c) := by
  apply BitVec.eq_of_toNat_eq; simp [addWord]

theorem subWord_eq (a b : Word) (c : Bool) : subWord a b c = a - b - BitVec.ofNat 32 (bit c) := by
  cases c
  · rw [subWord_false]; simp [bit]
  · rw [subWord_true]; simp [bit]

/-- What the four flags read as after they are written. -/
theorem withFlags_flags (s : State) (f : Flags) :
    (s.withFlags f).flagCY = f.cy ∧ (s.withFlags f).flagOV = f.ov ∧ (s.withFlags f).flagS = f.s ∧
      (s.withFlags f).flagZ = f.z := by
  simp only [State.flagCY, State.flagOV, State.flagS, State.flagZ, withFlags_bit]
  simp

theorem outOfRange_iff (e : Int) : outOfRange e = true ↔ ¬(-2 ^ 31 ≤ e ∧ e ≤ 2 ^ 31 - 1) := by
  simp [outOfRange]; omega

/-- The flags of add_flags (R293). -/
theorem sumFlags_withFlags (s : State) (a b : Word) (c : Bool) :
    SumFlags a b (bit c) (s.withFlags (addFlags a b c)) := by
  obtain ⟨h1, h2, h3, h4⟩ := withFlags_flags s (addFlags a b c)
  refine ⟨?_, ?_, ?_, ?_⟩
  · rw [h1]; simp [addFlags]
  · rw [h2]; exact outOfRange_iff _
  · rw [h3]; simp [addFlags, addWord_eq, BitVec.msb_eq_getLsbD_last]
  · rw [h4]; simp [addFlags, addWord_eq]

/-- The flags of sub_flags (R294). -/
theorem differenceFlags_withFlags (s : State) (a b : Word) (c : Bool) :
    DifferenceFlags a b (bit c) (s.withFlags (subFlags a b c)) := by
  obtain ⟨h1, h2, h3, h4⟩ := withFlags_flags s (subFlags a b c)
  refine ⟨?_, ?_, ?_, ?_⟩
  · rw [h1]; simp [subFlags]
  · rw [h2]; exact outOfRange_iff _
  · rw [h3]; simp [subFlags, subWord_eq, BitVec.msb_eq_getLsbD_last]
  · rw [h4]; simp [subFlags, subWord_eq]

theorem sumFlags_congr {a b : Word} {c : Nat} {t u : State} (h : u.psw = t.psw) (ht : SumFlags a b c t) :
    SumFlags a b c u := by
  unfold SumFlags State.flagCY State.flagOV State.flagS State.flagZ at *
  rw [h]; exact ht

theorem differenceFlags_congr {a b : Word} {c : Nat} {t u : State} (h : u.psw = t.psw) (ht : DifferenceFlags a b c t) :
    DifferenceFlags a b c u := by
  unfold DifferenceFlags State.flagCY State.flagOV State.flagS State.flagZ at *
  rw [h]; exact ht

/-- An addition into a register (R293). -/
theorem sumInto_addInto (s : State) (r : Reg) (a b : Word) (c : Bool) (n : Nat) :
    SumInto r a b (bit c) n s ((s.addInto r a b c).advance n) := by
  refine ⟨?_, ?_, ?_, falls_advance _ _ _ (by simp [State.addInto])⟩
  · simp [State.addInto, addWord_eq]
  · exact sumFlags_congr (by simp [State.addInto]) (sumFlags_withFlags s a b c)
  · exact (frame_advance ..).mpr (frame_writeReg (frame_withFlags (frame_refl ..) _ (by simp [arithBits]) (by simp [arithBits])
      (by simp [arithBits]) (by simp [arithBits])) _ _ (by simp))

/-- A subtraction into a register (R294). -/
theorem differenceInto_subInto (s : State) (r : Reg) (a b : Word) (c : Bool) (n : Nat) :
    DifferenceInto r a b (bit c) n s ((s.subInto r a b c).advance n) := by
  refine ⟨?_, ?_, ?_, falls_advance _ _ _ (by simp [State.subInto])⟩
  · simp [State.subInto, subWord_eq]
  · exact differenceFlags_congr (by simp [State.subInto]) (differenceFlags_withFlags s a b c)
  · exact (frame_advance ..).mpr (frame_writeReg (frame_withFlags (frame_refl ..) _ (by simp [arithBits]) (by simp [arithBits])
      (by simp [arithBits]) (by simp [arithBits])) _ _ (by simp))

/-- A comparison (R294). -/
theorem compare_withFlags (s : State) (a b : Word) (n : Nat) :
    DifferenceFlags a b 0 ((s.withFlags (subFlags a b false)).advance n) ∧
      Frame [] arithBits s ((s.withFlags (subFlags a b false)).advance n) ∧
      Falls n s ((s.withFlags (subFlags a b false)).advance n) := by
  refine ⟨?_, (frame_advance ..).mpr (frame_withFlags (frame_refl ..) _ (by simp [arithBits]) (by simp [arithBits])
    (by simp [arithBits]) (by simp [arithBits])), falls_advance _ _ _ (by simp)⟩
  have h := differenceFlags_withFlags s a b false
  rw [bit_false] at h
  exact differenceFlags_congr (advance_psw _ _) h

theorem bmod_word {e : Int} (h1 : -2 ^ 31 ≤ e) (h2 : e ≤ 2 ^ 31 - 1) : Int.bmod e (2 ^ 32) = e := by
  rw [Int.bmod_def]; omega

/-- The saturated value (R10, R310). -/
theorem saturatedWord_sat32 (e : Int) : SaturatedWord e (sat32 e) := by
  unfold SaturatedWord sat32
  refine ⟨fun h => if_pos h, ?_, ?_⟩
  · intro h
    rw [if_neg (by omega), if_pos h]
  · intro h1 h2
    rw [if_neg (by omega), if_neg (by omega), BitVec.toInt_ofInt]
    exact bmod_word h1 h2

/-- What the flags read as after those of a saturated operation are written. -/
theorem withSatFlags_flags (s : State) (f : Flags) :
    (s.withSatFlags f).flagCY = f.cy ∧ (s.withSatFlags f).flagOV = f.ov ∧ (s.withSatFlags f).flagS = f.s ∧
      (s.withSatFlags f).flagZ = f.z ∧ (s.withSatFlags f).flagSAT = (s.flagSAT || f.ov) := by
  refine ⟨?_, ?_, ?_, ?_, ?_⟩ <;>
    simp only [State.flagCY, State.flagOV, State.flagS, State.flagZ, State.flagSAT, withSatFlags_bit, withFlags_bit] <;> simp

theorem frame_withSatFlags (s : State) (f : Flags) : Frame [] (4 :: arithBits) s (s.withSatFlags f) :=
  frame_setPswBit (frame_withFlags (frame_refl ..) _ (by simp [arithBits]) (by simp [arithBits]) (by simp [arithBits])
    (by simp [arithBits])) _ _ (by simp)

theorem frame_mono {rs rs' : List Reg} {bits bits' : List Nat} {s t : State} (h : Frame rs bits s t)
    (hr : ∀ r, r ∈ rs → r ∈ rs') (hb : ∀ k, k ∈ bits → k ∈ bits') : Frame rs' bits' s t :=
  ⟨fun q hq => h.1 q fun hm => hq (hr q hm), fun k hk => h.2.1 k fun hm => hk (hb k hm), h.2.2.1, h.2.2.2⟩

/-- A saturated result with its flags (R310, R318). -/
theorem saturatesInto_of (s : State) (r : Reg) (e : Int) (f : Flags) (carry : Prop) (n : Nat)
    (hc : f.cy = true ↔ carry) (ho : f.ov = outOfRange e) (hs : f.s = (sat32 e).msb) (hz : f.z = (sat32 e == 0)) :
    SaturatesInto r e carry n s (((s.withSatFlags f).writeReg r (sat32 e)).advance n) := by
  obtain ⟨h1, h2, h3, h4, h5⟩ := withSatFlags_flags s f
  refine ⟨sat32 e, saturatedWord_sat32 e, by simp, ?_, ?_, ?_, ?_, ?_, ?_, falls_advance _ _ _ (by simp [State.withSatFlags])⟩
  · simp only [State.flagCY, advance_psw, writeReg_psw] at h1 ⊢
    rw [h1]; exact hc
  · have := outOfRange_iff e
    simp only [State.flagOV, advance_psw, writeReg_psw] at h2 ⊢
    rw [h2, ho]; exact this
  · simp only [State.flagS, advance_psw, writeReg_psw] at h3 ⊢
    rw [h3, hs, BitVec.msb_eq_getLsbD_last]
  · simp only [State.flagZ, advance_psw, writeReg_psw] at h4 ⊢
    rw [h4, hz]; simp
  · simp only [State.flagSAT, State.flagOV, advance_psw, writeReg_psw] at h5 h2 ⊢
    rw [h5, h2]
  · exact (frame_advance ..).mpr (frame_writeReg (frame_mono (frame_withSatFlags s f) (by simp) (fun _ h => h)) _ _ (by simp))

/-- sat_add into a register (R310). -/
theorem saturatesInto_satAdd (s : State) (r : Reg) (a b : Word) (n : Nat) :
    SaturatesInto r (a.toInt + b.toInt) (2 ^ 32 ≤ a.toNat + b.toNat) n s ((s.satAddInto r a b).advance n) :=
  saturatesInto_of s r _ (satAddFlags a b) _ n (by simp [satAddFlags, addFlags, bit])
    (by simp [satAddFlags, addFlags, bit]) rfl rfl

/-- sat_sub into a register (R310). -/
theorem saturatesInto_satSub (s : State) (r : Reg) (a b : Word) (n : Nat) :
    SaturatesInto r (a.toInt - b.toInt) (a.toNat < b.toNat) n s ((s.satSubInto r a b).advance n) :=
  saturatesInto_of s r _ (satSubFlags a b) _ n (by simp [satSubFlags, subFlags, bit])
    (by simp [satSubFlags, subFlags, bit]) rfl rfl

/-- Logic flags (R338). -/
theorem withLogicFlags_flags (s : State) (v : Word) :
    (s.withLogicFlags v).flagOV = false ∧ (s.withLogicFlags v).flagS = v.getLsbD 31 ∧
      ((s.withLogicFlags v).flagZ = true ↔ v = 0) ∧ Frame [] [0, 1, 2] s (s.withLogicFlags v) := by
  refine ⟨?_, ?_, ?_, frame_withFlags_keep (frame_refl ..) _ _ _ (by simp) (by simp) (by simp)⟩ <;>
    simp only [State.flagOV, State.flagS, State.flagZ, withLogicFlags_bit, BitVec.msb_eq_getLsbD_last] <;> simp

/-- A logical result in a register (R338). -/
theorem logicInto_logicInto (s : State) (r : Reg) (v : Word) (n : Nat) :
    LogicInto [r] v n s ((s.logicInto r v).advance n) := by
  obtain ⟨h1, h2, h3, h4⟩ := withLogicFlags_flags s v
  refine ⟨by simp [State.logicInto], by simpa [State.logicInto, State.flagOV] using h1,
    by simpa [State.logicInto, State.flagS] using h2, by simpa [State.logicInto, State.flagZ] using h3, ?_,
    falls_advance _ _ _ (by simp [State.logicInto, State.withLogicFlags])⟩
  exact (frame_advance ..).mpr (frame_writeReg (frame_mono h4 (by simp) (fun _ h => h)) _ _ (by simp))

/-- The flags of a logical result without a register (R335, R338). -/
theorem logicInto_flagsOnly (s : State) (v : Word) (n : Nat) :
    LogicInto [] v n s ((s.withLogicFlags v).advance n) := by
  obtain ⟨h1, h2, h3, h4⟩ := withLogicFlags_flags s v
  exact ⟨by simp, h1, h2, h3, h4, falls_advance _ _ _ (by simp [State.withLogicFlags])⟩

/-- A result with the four flags, in the general form of shifts, swaps and searches. -/
theorem flagsInto (s : State) (r : Reg) (v : Word) (f : Flags) (n : Nat) :
    let t := ((s.withFlags f).writeReg r v).advance n
    t.readReg r = written r v ∧ t.flagCY = f.cy ∧ t.flagOV = f.ov ∧ t.flagS = f.s ∧ t.flagZ = f.z ∧
      Frame [r] arithBits s t ∧ Falls n s t := by
  obtain ⟨h1, h2, h3, h4⟩ := withFlags_flags s f
  refine ⟨by simp, by simpa [State.flagCY] using h1, by simpa [State.flagOV] using h2, by simpa [State.flagS] using h3,
    by simpa [State.flagZ] using h4, ?_, falls_advance _ _ _ (by simp)⟩
  exact (frame_advance ..).mpr (frame_writeReg (frame_withFlags (frame_refl ..) _ (by simp [arithBits]) (by simp [arithBits])
    (by simp [arithBits]) (by simp [arithBits])) _ _ (by simp))

/-- A shift into a register (R365). -/
theorem shiftInto_of (s : State) (r : Reg) (v : Word) (bits : Nat → Bool) (out out' : Bool) (n : Nat)
    (hb : ∀ k, k < 32 → v.getLsbD k = bits k) (ho : out = out') :
    ShiftInto r bits out' n s (((s.withFlags (shiftFlags out v)).writeReg r v).advance n) := by
  obtain ⟨h1, h2, h3, h4, h5, h6, h7⟩ := flagsInto s r v (shiftFlags out v) n
  refine ⟨v, hb, h1, h2.trans ho, h3, h4.trans (BitVec.msb_eq_getLsbD_last v), ?_, h6, h7⟩
  rw [h5]; simp [shiftFlags]

theorem shiftInto_shl (s : State) (r : Reg) (v : Word) (k n : Nat) :
    ShiftInto r (fun j => decide (k ≤ j) && v.getLsbD (j - k)) (decide (k ≠ 0) && v.getLsbD (32 - k)) n s
      ((s.shlInto r v k).advance n) := by
  refine shiftInto_of s r _ _ _ _ n (fun j hj => ?_) ?_
  · simp only [BitVec.getLsbD_shiftLeft]; grind
  · unfold shlOut; by_cases h : k = 0 <;> simp [h]

theorem shiftInto_shr (s : State) (r : Reg) (v : Word) (k n : Nat) :
    ShiftInto r (fun j => v.getLsbD (j + k)) (decide (k ≠ 0) && v.getLsbD (k - 1)) n s ((s.shrInto r v k).advance n) := by
  refine shiftInto_of s r _ _ _ _ n (fun j hj => ?_) ?_
  · simp [Nat.add_comm]
  · unfold shrOut; by_cases h : k = 0 <;> simp [h]

theorem shiftInto_sar (s : State) (r : Reg) (v : Word) (k n : Nat) :
    ShiftInto r (fun j => v.getLsbD (min (j + k) 31)) (decide (k ≠ 0) && v.getLsbD (k - 1)) n s
      ((s.sarInto r v k).advance n) := by
  refine shiftInto_of s r _ _ _ _ n (fun j hj => ?_) ?_
  · simp only [BitVec.getLsbD_sshiftRight, BitVec.msb_eq_getLsbD_last]
    by_cases h : k + j < 32
    · have h1 : min (j + k) 31 = k + j := by omega
      have h2 : ¬ 32 ≤ j := by omega
      simp [h, h1, h2]
    · have h1 : min (j + k) 31 = 31 := by omega
      have h2 : ¬ 32 ≤ j := by omega
      simp [h, h1, h2]
  · unfold shrOut; by_cases h : k = 0 <;> simp [h]

theorem shiftCount_eq (v : Word) : shiftCount v = v.toNat % 32 := by
  simp [shiftCount, BitVec.extractLsb'_toNat]

/-- A swap into a register (R367). -/
theorem swapInto_swapInto (s : State) (r : Reg) (v : Word) (cy z : Bool) (p q : Prop) (hp : cy = true ↔ p) (hq : z = true ↔ q) :
    SwapInto r v p q s ((s.swapInto r v cy z).advance 4) := by
  obtain ⟨h1, h2, h3, h4, h5, h6, h7⟩ := flagsInto s r v (swapFlags cy z v) 4
  refine ⟨h1, ?_, ?_, h3, h4.trans (BitVec.msb_eq_getLsbD_last v), h6, h7⟩
  · rw [show ((s.swapInto r v cy z).advance 4).flagCY = cy from h2]; exact hp
  · rw [show ((s.swapInto r v cy z).advance 4).flagZ = z from h5]; exact hq

end Sys2Proof.Laws
end

