-- ==== Sys2Proof/Laws/Operations.lean ====
section
/-! SUPPORT. For each shared operation one lemma that says all it can do: stores, stack transfers, products, divisions, bit
searches, taking an exception, returning from one, LDSR to the PSW, a step on which nothing is accepted. -/

namespace Sys2Proof.Laws

open Sys2Proof.Machine Sys2Proof.Safety

/-! ## Immediates and displacements as numbers (R187) -/

theorem ofInt5 (i : BitVec 5) : BitVec.ofInt 32 i.toInt = sext5 i := by revert i; decide

theorem ofInt16 (i : Half) : BitVec.ofInt 32 i.toInt = sext16 i := by
  simp [sext16, BitVec.signExtend]

theorem toInt5 (i : BitVec 5) : (sext5 i).toInt = i.toInt := by revert i; decide

theorem sext_even {n : Nat} (hn : 0 < n) (hm : n + 1 ≤ 32) (d : BitVec n) : (d ++ 0#1).signExtend 32 = BitVec.ofInt 32 (2 * d.toInt) := by
  apply BitVec.eq_of_toInt_eq
  rw [BitVec.toInt_signExtend_of_le hm, BitVec.toInt_append, BitVec.toInt_ofInt]
  have hn0 : (n == 0) = false := by simp; omega
  rw [hn0]
  have h1 := BitVec.toInt_lt (x := d); have h2 := BitVec.le_toInt (x := d)
  have e : (2:Int) ^ (n-1) ≤ 2 ^ 30 := by
    have : (2:Nat)^(n-1) ≤ 2^30 := Nat.pow_le_pow_right (by omega) (by omega)
    exact_mod_cast this
  rw [Int.bmod_def]; simp; omega

theorem zext_even {n k : Nat} (d : BitVec n) : (d ++ 0#k).setWidth 32 = BitVec.ofNat 32 (2 ^ k * d.toNat) := by
  apply BitVec.eq_of_toNat_eq
  rw [BitVec.toNat_setWidth, BitVec.toNat_append, BitVec.toNat_ofNat, Nat.shiftLeft_eq]
  simp [Nat.mul_comm]

theorem branch32_eq (d : BitVec 31) : branch32 d = BitVec.ofNat 32 (2 * d.toNat) := by
  apply BitVec.eq_of_toNat_eq
  rw [branch32, BitVec.toNat_append, BitVec.toNat_ofNat, Nat.shiftLeft_eq]
  simp; omega

theorem branch9_eq (d : BitVec 8) : branch9 d = BitVec.ofInt 32 (2 * d.toInt) := sext_even (by omega) (by omega) d

theorem branch22_eq (d : BitVec 21) : branch22 d = BitVec.ofInt 32 (2 * d.toInt) := sext_even (by omega) (by omega) d

theorem frameBytes_eq (i : BitVec 5) : frameBytes i = BitVec.ofNat 32 (4 * i.toNat) := by revert i; decide

/-! ## Stores (R101) -/

/-- What stands at the address after a word is written. -/
theorem stored_write32 (s : State) (a v : Word) : Stored a 4 v (s.write32 a v) := by
  intro k hk
  rcases (by omega : k = 0 ∨ k = 1 ∨ k = 2 ∨ k = 3) with rfl | rfl | rfl | rfl <;> simp [read8_write32]

theorem stored_write16 (s : State) (a v : Word) : Stored a 2 v (s.write16 a v) := by
  intro k hk
  have : k = 0 ∨ k = 1 := by omega
  rcases this with rfl | rfl <;> simp [read8_write16]

theorem stored_write8 (s : State) (a v : Word) : Stored a 1 v (s.write8 a (byteOf v 0)) := by
  intro k hk
  have : k = 0 := by omega
  subst this; simp [read8_write8]

theorem memExcept_write8 (s : State) (a : Word) (b : Byte) : MemExcept a 1 s (s.write8 a b) := by
  intro x hx; have := hx 0 (by omega); simp at this; simp [read8_write8, this]

/-! ## Bit instructions (R434 to R436) -/

theorem isSp_eq (R : Reg) : isSp R = decide (R = 3) := by simp [isSp, spReg]; rfl

theorem bitOp_apply_bit (op : BitOp) (b : Byte) (k j : Nat) (hj : j < 8) (_hk : k < 8) : (op.apply b k).getLsbD j =
    if j = k then (match op with | .set => true | .invert => !b.getLsbD k | .clear => false) else b.getLsbD j := by
  cases op <;> simp [BitOp.apply, BitVec.getLsbD_shiftLeft] <;> grind

theorem bitNumber_eq (v : Word) : bitNumber v = v.toNat % 8 := by simp [bitNumber, BitVec.extractLsb'_toNat]

theorem onlyStored_pc {a : Word} {n : Nat} {s u : State} (h : OnlyStored a n s u) : u.pc = s.pc := by rw [h.2]

/-! ## Products (R260, R270) -/

theorem append_halves (p : DWord) : p.extractLsb' 32 32 ++ p.extractLsb' 0 32 = p := by
  apply BitVec.eq_of_getLsbD_eq; intro i hi; simp; grind

theorem productInto_write (s : State) (p : DWord) (r w : Reg) :
    ProductInto r w (p.extractLsb' 32 32) (p.extractLsb' 0 32) s ((s.writeProduct p r w).advance 4) := by
  refine ⟨by simp [State.writeProduct], ?_, ?_, falls_advance _ _ _ (by simp [State.writeProduct])⟩
  · intro h; simp [State.writeProduct, readReg_writeReg, h]
  · exact (frame_advance ..).mpr (frame_writeReg (frame_writeReg (frame_refl ..) _ _ (by simp)) _ _ (by simp))

theorem mul_bound (a b : Int) {m n : Nat} (ha : -(2:Int)^m ≤ a ∧ a ≤ 2^m) (hb : -(2:Int)^n ≤ b ∧ b ≤ 2^n) : -(2:Int)^(m+n) ≤ a*b ∧ a*b ≤ 2^(m+n) := by
  have h : a.natAbs * b.natAbs ≤ 2^m * 2^n := Nat.mul_le_mul (by
    have := ha.1; have := ha.2; have e : ((2^m : Nat) : Int) = 2^m := by simp
    omega) (by have := hb.1; have := hb.2; have e : ((2^n : Nat) : Int) = 2^n := by simp
               omega)
  rw [← Int.natAbs_mul, ← Nat.pow_add] at h
  have e : ((2^(m+n) : Nat) : Int) = 2^(m+n) := by simp
  omega

theorem mulSigned_toInt (a b : Word) : (mulSigned a b).toInt = a.toInt * b.toInt := by
  unfold mulSigned
  rw [BitVec.toInt_ofInt]
  have ha := BitVec.toInt_lt (x := a); have ha' := BitVec.le_toInt (x := a)
  have hb := BitVec.toInt_lt (x := b); have hb' := BitVec.le_toInt (x := b)
  have := mul_bound a.toInt b.toInt (m := 31) (n := 31) (by omega) (by omega)
  rw [Int.bmod_def]
  omega

theorem mulUnsigned_toNat (a b : Word) : (mulUnsigned a b).toNat = a.toNat * b.toNat := by
  unfold mulUnsigned
  rw [BitVec.toNat_ofNat]
  have : a.toNat * b.toNat ≤ (2^32-1) * (2^32-1) := Nat.mul_le_mul (by have := a.isLt; omega) (by have := b.isLt; omega)
  omega

theorem mulHalf_toInt (a b : Half) : (mulHalf a b).toInt = a.toInt * b.toInt := by
  unfold mulHalf
  rw [BitVec.toInt_ofInt]
  have ha := BitVec.toInt_lt (x := a); have ha' := BitVec.le_toInt (x := a)
  have hb := BitVec.toInt_lt (x := b); have hb' := BitVec.le_toInt (x := b)
  have := mul_bound a.toInt b.toInt (m := 15) (n := 15) (by omega) (by omega)
  rw [Int.bmod_def]
  omega

theorem pairHigh_ne (p : RegPair) : pairHigh p ≠ 0 ∧ pairLow p ≠ pairHigh p := by revert p; decide

theorem pairInto_write (s : State) (p : DWord) (m : RegPair) :
    PairInto m (p.extractLsb' 32 32) (p.extractLsb' 0 32) s ((s.writePair m p).advance 4) := by
  obtain ⟨h1, h2⟩ := pairHigh_ne m
  refine ⟨by simp [State.writePair, readReg_writeReg, h2], ?_, ?_, falls_advance _ _ _ (by simp [State.writePair])⟩
  · simp only [State.writePair, advance_readReg, readReg_writeReg, if_true, written, h1, if_false]
  · exact (frame_advance ..).mpr (frame_writeReg (frame_writeReg (frame_refl ..) _ _ (by simp)) _ _ (by simp))

/-! ## Bit search (R374) -/

theorem firstPosition_spec (b : Bool) (l : List Bool) (k : Nat) (hk : 0 < k) :
    (∀ n, (h : n < l.length) → l[n] = b → (∀ m, (h' : m < n) → l[m] ≠ b) → firstPosition b l k = k + n) ∧
    ((∀ x ∈ l, x ≠ b) → firstPosition b l k = 0) := by
  induction l generalizing k with
  | nil => simp [firstPosition]
  | cons x xs ih =>
    have ⟨ih1, ih2⟩ := ih (k + 1) (by omega)
    constructor
    · intro n h hb hm
      cases n with
      | zero => simp at hb; simp [firstPosition, hb]
      | succ n =>
        have h0 := hm 0 (by omega)
        simp at h0
        simp only [firstPosition, beq_iff_eq, h0, if_false]
        rw [ih1 n (by simpa using h) (by simpa using hb) (fun m h' => by simpa using hm (m+1) (by omega))]
        omega
    · intro h
      simp only [List.mem_cons, forall_eq_or_imp] at h
      simp [firstPosition, h.1, ih2 h.2]

/-- All that a bit search does, from the list of the bits it looks at. -/
theorem searchInto_of (s : State) (w : Reg) (b : Bool) (v : Word) (l : List Bool) (bitAt : Nat → Nat)
    (hl : l.length = 32) (h : ∀ n, (hn : n < l.length) → l[n] = v.getLsbD (bitAt (n + 1))) :
    SearchInto w b v bitAt s ((s.searchInto w (firstPosition b l 1)).advance 4) := by
  obtain ⟨p1, p2⟩ := firstPosition_spec b l 1 (by omega)
  obtain ⟨h1, h2, h3, h4, h5, h6, h7⟩ := flagsInto s w (BitVec.ofNat 32 (firstPosition b l 1)) (searchFlags (firstPosition b l 1)) 4
  refine ⟨?_, ?_, h3, h4, h6, h7⟩
  · intro k hk1 hk2 hb hm
    have e : firstPosition b l 1 = k := by
      rw [p1 (k - 1) (by omega) (by rw [h, show k - 1 + 1 = k by omega]; exact hb)
        (fun m hm' => by rw [h]; exact hm (m+1) (by omega) (by omega))]
      omega
    rw [e] at h1 h2 h5
    refine ⟨by rw [State.searchInto, e]; exact h1, ?_, ?_⟩
    · rw [State.searchInto, e, h5]; simp [searchFlags]; omega
    · rw [State.searchInto, e, h2]; simp [searchFlags]
  · intro hm
    have e : firstPosition b l 1 = 0 := by
      apply p2
      intro x hx
      obtain ⟨n, hn, rfl⟩ := List.mem_iff_getElem.mp hx
      rw [h]; exact hm (n+1) (by omega) (by omega)
    rw [e] at h1 h2 h5
    refine ⟨by rw [State.searchInto, e]; exact h1, ?_, ?_⟩
    · rw [State.searchInto, e, h5]; simp [searchFlags]
    · rw [State.searchInto, e, h2]; simp [searchFlags]

/-! ## Division (R397 to R399) -/

/-- What a three-operand division leaves as it was, whatever it gives. -/
theorem divideInto_frame (s : State) (d : Division) (r w : Reg) : DivideFrame [r, w] 4 s ((s.divideInto d r w).advance 4) := by
  have hf : ∀ a b c, Frame [] [0,1,2] s (s.withDivFlags a b c) := fun a b c => frame_withFlags_keep (frame_refl ..) _ _ _ (by simp) (by simp) (by simp)
  unfold State.divideInto
  have key : ∀ u : State, Frame [] [0,1,2] s u → u.pc = s.pc → DivideFrame [r, w] 4 s ((((u.writeReg r d.quotient).writeReg w d.remainder).useFree).advance 4) := by
    intro u hu hpc
    have h2 : Frame [r, w] [0,1,2] s ((u.writeReg r d.quotient).writeReg w d.remainder) := frame_writeReg (frame_writeReg (frame_mono hu (by simp) (fun _ h => h)) _ _ (by simp)) _ _ (by simp)
    obtain ⟨a1, a2, a3, a4, a5, a6⟩ := h2
    exact ⟨a1, a2, a3, a4, a6, by simp [Falls, State.advance, State.setPc, State.useFree, hpc]⟩
  split
  · exact key _ (hf ..) rfl
  · exact key _ (hf ..) rfl

theorem withDivFlags_flags (s : State) (ov sg z : Bool) : (s.withDivFlags ov sg z).flagOV = ov ∧ (s.withDivFlags ov sg z).flagS = sg ∧ (s.withDivFlags ov sg z).flagZ = z := by
  simp only [State.flagOV, State.flagS, State.flagZ, withDivFlags_bit]; simp

/-- What a three-operand division writes when reg2 is not reg3. -/
theorem divideInto_results (s : State) (d : Division) (r w : Reg) (h : r ≠ w) (t : State) (ht : t = ((s.divideInto d r w).advance 4)) :
   t.readReg r = written r d.quotient ∧ t.readReg w = written w d.remainder ∧ t.flagOV = d.ov ∧ t.flagS = d.s ∧ t.flagZ = d.z := by
  obtain ⟨h1, h2, h3⟩ := withDivFlags_flags s d.ov d.s d.z
  subst ht
  have e : ((s.divideInto d r w).advance 4).psw = (s.withDivFlags d.ov d.s d.z).psw := by
    simp [State.divideInto, h, State.useFree]
  refine ⟨?_, ?_, ?_, ?_, ?_⟩
  · simp [State.divideInto, h, State.useFree]
    show ((((s.withDivFlags d.ov d.s d.z).writeReg r d.quotient).writeReg w d.remainder)).readReg r = _
    rw [readReg_writeReg_other _ _ h]; simp
  · simp [State.divideInto, h, State.useFree]
    show ((((s.withDivFlags d.ov d.s d.z).writeReg r d.quotient).writeReg w d.remainder)).readReg w = _
    simp
  · rw [← h1]; unfold State.flagOV; rw [e]
  · rw [← h2]; unfold State.flagS; rw [e]
  · rw [← h3]; unfold State.flagZ; rw [e]

theorem divideInto_same (s : State) (d : Division) (r : Reg) : ((s.divideInto d r r).advance 4).readReg r = written r d.remainder := by
  show ((((if r = r then _ else _ : State).writeReg r d.quotient).writeReg r d.remainder)).readReg r = _
  simp

theorem tdiv_bounds (a b : Int) (ha : -2^31 ≤ a ∧ a ≤ 2^31-1) (hbb : -2^31 ≤ b ∧ b ≤ 2^31-1) (hb : b ≠ 0) (h : ¬(a = -2^31 ∧ b = -1)) :
    -2^31 ≤ a.tdiv b ∧ a.tdiv b ≤ 2^31-1 ∧ -2^31 ≤ a.tmod b ∧ a.tmod b ≤ 2^31 - 1 := by
  have h1 := Int.natAbs_tdiv_le_natAbs a b
  have hn : (a.tmod b).natAbs = a.natAbs % b.natAbs := Int.natAbs_tmod ..
  have h3 : (a.tmod b).natAbs < b.natAbs := by rw [hn]; exact Nat.mod_lt _ (by omega)
  refine ⟨by omega, ?_, by omega, by omega⟩
  by_cases h5 : a = -2^31
  · by_cases h6 : b = 1
    · subst h6; simp; omega
    · have h7 : 2 ≤ b.natAbs := by have : b ≠ -1 := fun e => h ⟨h5, e⟩
                                   omega
      have h8 : (a.tdiv b).natAbs = a.natAbs / b.natAbs := Int.natAbs_tdiv ..
      have h9 : a.natAbs / b.natAbs ≤ a.natAbs / 2 := Nat.div_le_div_left h7 (by omega)
      omega
  · omega

theorem quotRem_tdiv (a b : Int) (hb : b ≠ 0) : QuotRem a b (a.tdiv b) (a.tmod b) := by
  refine ⟨(Int.tdiv_mul_add_tmod a b).symm, ?_, ?_⟩
  · rw [Int.natAbs_tmod]; exact Nat.mod_lt _ (by omega)
  · rcases Int.lt_trichotomy a 0 with h | h | h
    · have : (-a).tmod b = - a.tmod b := Int.neg_tmod ..
      have h2 := Int.tmod_nonneg b (by omega : 0 ≤ -a)
      right; constructor <;> intro <;> omega
    · subst h; simp
    · have := Int.tmod_nonneg b (by omega : 0 ≤ a); omega

theorem toInt_ofInt_word {e : Int} (h1 : -2 ^ 31 ≤ e) (h2 : e ≤ 2 ^ 31 - 1) : (BitVec.ofInt 32 e).toInt = e := by
  rw [BitVec.toInt_ofInt]; exact bmod_word h1 h2

/-- The results of a signed division whose divisor is not 0. -/
theorem signedResults_of (n : Nat) (a b : Int) (ha : -2^31 ≤ a ∧ a ≤ 2^31-1) (hbb : -2^31 ≤ b ∧ b ≤ 2^31-1) (hb : b ≠ 0) (t : State)
   (h : t.flagOV = (divideSigned n a b).ov ∧ t.flagS = (divideSigned n a b).s ∧ t.flagZ = (divideSigned n a b).z) :
    SignedResults a b (divideSigned n a b).quotient (divideSigned n a b).remainder t := by
  unfold divideSigned at *
  rw [if_neg hb] at *
  by_cases ho : a = -2^31 ∧ b = -1
  · rw [if_pos ho] at *
    refine ⟨fun h' => absurd ho h', fun _ => ⟨rfl, rfl, ?_, ?_, ?_⟩⟩
    · simp [h.1]
    · rw [h.2.1]; decide
    · rw [h.2.2]; decide
  · rw [if_neg ho] at *
    obtain ⟨b1, b2, b3, b4⟩ := tdiv_bounds a b ha hbb hb ho
    refine ⟨fun _ => ⟨?_, ?_, ?_, ?_⟩, fun h' => absurd h' ho⟩
    · simp only [toInt_ofInt_word b1 b2, toInt_ofInt_word b3 b4]; exact quotRem_tdiv a b hb
    · simp [h.1]
    · rw [h.2.1]; exact BitVec.msb_eq_getLsbD_last (BitVec.ofInt 32 (a.tdiv b))
    · rw [h.2.2]; simp

theorem word_range (v : Word) : -2^31 ≤ v.toInt ∧ v.toInt ≤ 2^31-1 := by
  have := BitVec.toInt_lt (x := v); have := BitVec.le_toInt (x := v); omega

theorem half_range (v : Half) : -2^31 ≤ v.toInt ∧ v.toInt ≤ 2^31-1 := by
  have := BitVec.toInt_lt (x := v); have := BitVec.le_toInt (x := v); omega

/-- The results of an unsigned division whose divisor is not 0. -/
theorem unsignedResults_of (n : Nat) (a b : Nat) (ha : a < 2^32) (hbb : b < 2^32) (hb : b ≠ 0) (t : State)
   (h : t.flagOV = (divideUnsigned n a b).ov ∧ t.flagS = (divideUnsigned n a b).s ∧ t.flagZ = (divideUnsigned n a b).z) :
    UnsignedResults a b (divideUnsigned n a b).quotient (divideUnsigned n a b).remainder t := by
  unfold divideUnsigned at *
  rw [if_neg hb] at *
  have h1 : a / b < 2^32 := Nat.lt_of_le_of_lt (Nat.div_le_self ..) ha
  have h2 : a % b < b := Nat.mod_lt _ (by omega)
  refine ⟨?_, ?_, ?_, ?_, ?_⟩
  · simp only [BitVec.toNat_ofNat]
    rw [Nat.mod_eq_of_lt h1, Nat.mod_eq_of_lt (by omega), Nat.mul_comm]; exact (Nat.div_add_mod a b).symm
  · simp only [BitVec.toNat_ofNat]; rw [Nat.mod_eq_of_lt (by omega)]; exact h2
  · simp [h.1]
  · rw [h.2.1]; exact BitVec.msb_eq_getLsbD_last (w := 32) (BitVec.ofNat 32 (a / b))
  · rw [h.2.2]; simp

/-! ## Taking an exception (R515 to R523) -/

/-- The PSW after any acceptance. -/
theorem pswEntered_take (s : State) (c : Cause) :
    PswEntered (decide (c.level = .fe)) c.interrupt (s.aue || c.clears) s (s.take c) := by
  have hp : (s.take c).psw = s.acceptedPsw c := rfl
  refine ⟨?_, ?_, ?_, ?_, rfl, ?_⟩
  · simp only [State.pswID, hp, acceptedPsw_bit]; simp
  · simp only [State.pswEP, hp, acceptedPsw_bit]; simp
  · intro h; simp only [State.pswNP, hp, acceptedPsw_bit]; simp at h; simp [h]
  · intro h; simp only [State.pswNPV, State.pswDMP, State.pswIMP, hp, acceptedPsw_bit, h]; simp
  · intro k hk
    rw [hp, acceptedPsw_bit]
    simp at hk
    obtain ⟨h5, h6, h7, h8⟩ := hk
    simp only [h5, h6, if_false]
    have h7' : ¬(k = 7 ∧ c.level = .fe) := by
      rintro ⟨rfl, h⟩; simp [h] at h7
    have h8' : ¬((k = 16 ∨ k = 17 ∨ k = 18) ∧ (s.aue || c.clears) = true) := by
      rintro ⟨h, hc⟩
      have := h8 (by simpa using hc); omega
    rw [if_neg h7', if_neg h8']

/-- All that the acceptance of an FE-level exception does. -/
theorem entersFe_take (s : State) (c : Cause) (h : c.level = .fe) :
    EntersFe c.code c.ret c.handler c.interrupt c.clears s.sys s (s.take c) := by
  refine ⟨?_, ?_, rfl, rfl, rfl, rfl, rfl, rfl, rfl⟩
  · simp [State.take, State.savedContext, h]
  · have := pswEntered_take s c; simpa [h] using this

/-- All that the acceptance of an EI-level exception does. -/
theorem entersEi_take (s : State) (c : Cause) (h : c.level = .ei) (hc : c.clears = false):
    EntersEi c.code c.ret c.handler c.interrupt s (s.take c) := by
  refine ⟨?_, ?_, rfl, rfl, rfl, rfl, rfl, rfl, rfl⟩
  · simp [State.take, State.savedContext, h]
  · have := pswEntered_take s c; simpa [h, hc] using this

theorem take_regs (s : State) (c : Cause) : RegsExcept [] s (s.take c) ∧ MemSame s (s.take c) := ⟨fun _ _ => rfl, fun _ => rfl⟩

/-- MIP and MDP. -/
theorem entersFe_violation (s : State) (a v code : Word) :
    EntersFe code s.pc (s.sys.ehBase + 0x30) false true (violationRecorded s a v) s ((s.recordMemoryViolation a v).take (s.protectionCause code)) := by
  have h := entersFe_take (s.recordMemoryViolation a v) (s.protectionCause code) rfl
  obtain ⟨h1, h2, h3, h4, h5⟩ := h
  refine ⟨h1, ?_, h3, h4, h5⟩
  have e : (s.recordMemoryViolation a v).aue = s.aue := rfl
  rw [e] at h2
  exact h2

/-- All that the acceptance of the exception of an access error does, once the platform was asked. -/
theorem aborted_takeError {s u : State} (e : AccessError) (h : OnlyAsked s u) : Aborted e s u (u.takeError e) := by
  refine ⟨h, ?_, ?_, ?_⟩
  · have hc : (u.errorCause e).code = errorCode e ∧ (u.errorCause e).ret = s.pc ∧
        (u.errorCause e).handler = s.sys.ehBase + 0x30 ∧ (u.errorCause e).interrupt = false ∧
        (u.errorCause e).clears = false ∧ (u.errorCause e).level = .fe ∧ u.sys = s.sys := by
      rw [h]; cases e <;> exact ⟨rfl, rfl, rfl, rfl, rfl, rfl, rfl⟩
    obtain ⟨c1, c2, c3, c4, c5, c6, c7⟩ := hc
    have := entersFe_take u (u.errorCause e) c6
    rw [c1, c2, c3, c4, c5, c7] at this
    exact this
  · intro q _; show u.readReg q = _; rw [h]; rfl
  · intro x; show u.read8 x = _; rw [h]; rfl

/-! ## Data accesses of an instruction (R120, R235) -/

theorem reading_ok {s : State} {a : Word} {n : Nat} (rest : State → State) (h : s.busError a n = none) :
    s.reading a n rest = rest (s.afterRead a n) := by simp only [State.reading, h]

theorem reading_error {s : State} {a : Word} {n : Nat} (rest : State → State) {e : AccessError}
    (h : s.busError a n = some e) : s.reading a n rest = (s.afterRead a n).takeError e := by simp only [State.reading, h]

theorem writing_ok {s : State} {a : Word} {n : Nat} (v : Word) (rest : State → State) (h : s.busError a n = none) :
    s.writing a n v rest = rest (s.busWrite a n v) := by simp only [State.writing, h]

theorem writing_error {s : State} {a : Word} {n : Nat} (v : Word) (rest : State → State) {e : AccessError}
    (h : s.busError a n = some e) : s.writing a n v rest = (s.busWrite a n v).takeError e := by
  simp only [State.writing, h]

/-- A read on plain memory is the rest of the instruction on the same state. -/
theorem reading_plain {s : State} {a : Word} {n : Nat} (rest : State → State) (h : Plain s a n) :
    s.reading a n rest = rest s := by rw [reading_ok rest (busError_plain h), afterRead_plain h]

/-- A read with an error aborts the instruction. -/
theorem aborted_reading {s : State} {a : Word} {n : Nat} (rest : State → State) {e : AccessError}
    (h : s.busError a n = some e) : Aborted e s (s.afterRead a n) (s.reading a n rest) := by
  rw [reading_error rest h]; exact aborted_takeError e (onlyAsked_afterRead ..)

/-- A write with an error aborts the instruction. -/
theorem aborted_writing {s : State} {a : Word} {n : Nat} (v : Word) (rest : State → State) {e : AccessError}
    (h : s.busError a n = some e) : Aborted e s (s.busWrite a n v) (s.writing a n v rest) := by
  rw [writing_error v rest h]; exact aborted_takeError e (onlyAsked_busWrite v h)

/-- A write with an error after a read without one aborts the instruction. -/
theorem aborted_modify {s : State} {a : Word} {n : Nat} (v : Word) (rest : State → State) {e : AccessError}
    (h : (s.afterRead a n).busError a n = some e) :
    Aborted e s ((s.afterRead a n).busWrite a n v) ((s.afterRead a n).writing a n v rest) := by
  rw [writing_error v rest h]
  exact aborted_takeError e (onlyAsked_trans (onlyAsked_afterRead ..) (onlyAsked_busWrite v h))

/-- A load written over State.access, State.reading and State.load: v is the value of the bytes that MemRead gives. -/
theorem loadGives_of (i : Instr) (s : State) (a : Word) (n : Nat) (sp : Bool) (r : Reg) (v : (Nat → Byte) → Word) (len : Nat)
    (h : exec i s = .next (s.access (loadAccess a n sp) (s.reading a n fun t => t.load r (v (s.busByte a n)) len)))
    (hv : Plain s a n → v (s.busByte a n) = v (memBytes s a)) : LoadGives i s a n sp r v len := by
  intro hp
  replace h := h.trans (congrArg Host.Outcome.next (access_of_permitted _ hp))
  refine ⟨fun pl => ⟨_, h, ?_⟩, fun ok => ⟨_, h, onlyAsked_afterRead .., ?_⟩, fun e he => ⟨_, h, aborted_reading _ he⟩⟩
  · rw [reading_plain _ pl, hv pl]; exact setsReg_writeReg ..
  · rw [reading_ok _ ok]; exact setsReg_writeReg ..

/-- A frame holds after a step that changes nothing. -/
theorem frame_of_advance (u : State) (n : Nat) : Frame [] [] u (u.advance n) := frame_refl ..

/-- What MemWrite to plain memory leaves. -/
theorem busWrite_plain {s : State} {a : Word} {n : Nat} (v : Word) (hn : n = 1 ∨ n = 2 ∨ n = 4) (pl : Plain s a n) :
    Stored a n v (s.busWrite a n v) ∧ s.busWrite a n v = { s with mem := (s.busWrite a n v).mem } := by
  rcases hn with rfl | rfl | rfl
  · rw [busWrite_plain1 v pl]; exact ⟨stored_write8 s a v, rfl⟩
  · rw [busWrite_plain2 v pl]; exact ⟨stored_write16 s a v, rfl⟩
  · rw [busWrite_plain4 v pl]; exact ⟨stored_write32 s a v, rfl⟩

/-- A store written over State.access and State.writing. -/
theorem storeGives_of (i : Instr) (s : State) (a : Word) (n : Nat) (sp : Bool) (v : Word) (len : Nat)
    (hn : n = 1 ∨ n = 2 ∨ n = 4)
    (h : exec i s = .next (s.access (storeAccess a n sp) (s.writing a n v fun t => t.advance len))) :
    StoreGives i s a n sp v len := by
  intro hp
  replace h := h.trans (congrArg Host.Outcome.next (access_of_permitted _ hp))
  have hs := onlyStored_busWrite s a n v hn
  have hf : Falls len s ((s.busWrite a n v).advance len) := by
    simp only [Falls, State.advance, State.setPc, onlyStored_pc hs]
  refine ⟨fun pl => ⟨_, h, ?_⟩, fun ok => ⟨_, h, ?_⟩, fun e he => ⟨_, h, aborted_writing _ _ he⟩⟩
  · rw [writing_ok _ _ (busError_plain pl)]
    obtain ⟨h1, e⟩ := busWrite_plain v hn pl
    have hm := hs.1
    refine ⟨hf, h1, ?_, ?_, hm, ?_⟩
    · rw [e]; intro q _; rfl
    · rw [e]; intro q _; rfl
    · rw [e]; exact ⟨rfl, rfl, rfl, rfl, rfl, rfl, rfl, rfl, rfl⟩
  · rw [writing_ok _ _ ok]; exact ⟨hf, hs, frame_of_advance ..⟩

/-- All that a modifying bit instruction does when its access is permitted. -/
theorem bitGives_of (i : Instr) (s : State) (a : Word) (k : Nat) (hk : k < 8) (sp : Bool) (op : BitOp) (new : Bool → Bool)
    (h : exec i s = .next (s.access (modifyAccess a 1 sp) (s.modifyBit op a k 4)))
    (hn : ∀ x, new x = (match (generalizing := false) op with | .set => true | .invert => !x | .clear => false)) :
    BitGives i s a k sp new := by
  intro hp
  replace h := h.trans (congrArg Host.Outcome.next (access_of_permitted _ hp))
  refine ⟨(s.afterRead a 1).busWrite a 1 ((op.apply (s.busByte a 1 0) k).setWidth 32), op.apply (s.busByte a 1 0) k,
    fun j hj => by rw [bitOp_apply_bit _ _ _ _ hj hk, hn], rfl, fun pl => ⟨_, h, ?_⟩, fun o1 o2 => ⟨_, h, ?_⟩,
    fun e he => ⟨_, h, aborted_reading _ he⟩, fun e o1 he => ⟨_, h, ?_⟩⟩
  · have eb : s.busByte a 1 0 = s.read8 a := by simpa using busByte_plain pl (k := 0) (by omega)
    rw [State.modifyBit, reading_plain _ pl, writing_ok _ _ (busError_plain pl), busWrite_plain1 _ pl, State.busRead8]
    refine ⟨?_, eb, ?_, ?_, ?_, ?_, ?_, ?_⟩
    · simp [Falls, State.advance, State.setPc]
    · simp only [State.flagZ, advance_psw, testBit_bit, eb]; simp
    · simp [read8_write8]
    · intro q _; simp
    · intro j hj; simp at hj; simp [testBit_bit, hj]
    · intro x hx; have := hx 0 (by omega); simp at this; simp [read8_write8, this]
    · exact ⟨rfl, rfl, rfl, rfl, rfl, rfl, rfl, rfl, rfl⟩
  · have hs : OnlyStored a 1 s ((s.afterRead a 1).busWrite a 1 ((op.apply (s.busByte a 1 0) k).setWidth 32)) :=
      onlyStored_trans (onlyStored_of_asked (onlyAsked_afterRead ..)) (onlyStored_busWrite _ _ _ _ (.inl rfl))
    rw [State.modifyBit, reading_ok _ o1, writing_ok _ _ o2, State.busRead8]
    refine ⟨?_, ?_, hs, ?_⟩
    · simp only [Falls, State.advance, State.setPc, testBit_pc, onlyStored_pc hs]
    · simp only [State.flagZ, advance_psw, testBit_bit]; simp
    · exact (frame_advance ..).mpr (frame_setPswBit (frame_refl ..) _ _ (by simp))
  · rw [State.modifyBit, reading_ok _ o1, State.busRead8]; exact aborted_modify _ _ he

/-- All that a TST1 does when its access is permitted. -/
theorem testGives_of (i : Instr) (s : State) (a : Word) (k : Nat) (sp : Bool)
    (h : exec i s = .next (s.access (testAccess a sp) (s.readBit a k 4))) : TestGives i s a k sp := by
  intro hp
  replace h := h.trans (congrArg Host.Outcome.next (access_of_permitted _ hp))
  refine ⟨fun pl => ⟨_, h, ?_⟩, fun ok => ⟨_, h, ?_⟩, fun e he => ⟨_, h, aborted_reading _ he⟩⟩
  · have eb : s.busByte a 1 0 = s.read8 a := by simpa using busByte_plain pl (k := 0) (by omega)
    rw [State.readBit, reading_plain _ pl, State.busRead8, eb]
    refine ⟨?_, ?_, (frame_advance ..).mpr (frame_setPswBit (frame_refl ..) _ _ (by simp))⟩
    · simp [Falls, State.advance, State.setPc]
    · simp only [State.flagZ, advance_psw, testBit_bit]; simp
  · rw [State.readBit, reading_ok _ ok, State.busRead8]
    refine ⟨?_, ?_, onlyAsked_afterRead .., (frame_advance ..).mpr (frame_setPswBit (frame_refl ..) _ _ (by simp))⟩
    · simp [Falls, State.advance, State.setPc]
    · simp only [State.flagZ, advance_psw, testBit_bit]; simp

/-! ## Returning (R451, R541) -/

/-- All that a return does. -/
theorem returns_restore (s : State) (ret v : Word) (n : Bool) (u : State) (hu : u = if n then { s with events := .eoi :: s.events } else s) :
    Returns ret v n s (u.restore ret v) := by
  have e : ∀ P : State → Prop, P s → (∀ ev, P { s with events := ev }) → P u := by
    intro P h1 h2; rw [hu]; split
    · exact h2 _
    · exact h1
  have hpsw : (u.restore ret v).psw = legalPsw s.mpm v := by
    rw [hu]; split <;> rfl
  refine ⟨rfl, ⟨?_, ?_, ?_, ?_, ?_⟩, rfl, ?_, ?_, ?_, ?_, ?_⟩
  · intro k hk; rw [hpsw, legalPsw_bit]
    have : (decide (k < 8 ∨ (9 ≤ k ∧ k < 12))) = true := by simp; omega
    simp [this]
  · simp only [State.pswIMP, hpsw, legalPsw_bit]; simp [State.mpe, Bool.and_comm]
  · simp only [State.pswDMP, hpsw, legalPsw_bit]; simp [State.mpe, Bool.and_comm]
  · simp only [State.pswNPV, hpsw, legalPsw_bit]; simp [State.mpe, State.aue, Bool.and_comm]
  · intro k hk; rw [hpsw, legalPsw_bit]
    have h1 : (decide (k < 8 ∨ (9 ≤ k ∧ k < 12))) = false := by simp; omega
    have h2 : (decide (k = 16 ∨ k = 17)) = false := by simp; omega
    have h3 : (decide (k = 18)) = false := by simp; omega
    rw [h1, h2, h3]; simp
  · rw [hu]; cases n <;> rfl
  · rw [hu]; intro q _; cases n <;> rfl
  · rw [hu]; intro q; cases n <;> rfl
  · rw [hu]; cases n <;> rfl
  · rw [hu]; cases n <;> exact ⟨rfl, rfl, rfl, rfl, rfl⟩

theorem notifyEnd_eq (s : State) : s.notifyEnd = if (!s.pswEP) then { s with events := .eoi :: s.events } else s := by
  unfold State.notifyEnd; cases s.pswEP <;> rfl

/-! ## The stack frame (R457, R465) -/

theorem read8_withMem {s u : State} {m : List Host.Cell} {b : Word} {x y : Byte} (h : ({ u with mem := m } : State).read8 b = x) (w : x = y) : ({ s with mem := m } : State).read8 b = y := h.trans w

theorem wordAlign_toNat (a : Word) : (wordAlign a).toNat = a.toNat / 4 * 4 := by
  have h : wordAlign a = a - (a &&& 3#32) := by
    unfold wordAlign
    have e : a = (a &&& 0xFFFFFFFC#32) + (a &&& 3#32) := by
      rw [BitVec.add_eq_or_of_and_eq_zero]
      · rw [← BitVec.and_or_distrib_left]; simp; exact (BitVec.and_allOnes (x := a)).symm
      · rw [BitVec.and_assoc, ← BitVec.and_assoc 0xFFFFFFFC#32, BitVec.and_comm 0xFFFFFFFC#32 a, BitVec.and_assoc a]
        simp
    generalize a &&& 0xFFFFFFFC#32 = x at *
    generalize a &&& 3#32 = y at *
    subst e; bv_omega
  have h3 : (a &&& 3#32).toNat = a.toNat % 4 := by
    rw [BitVec.toNat_and]; exact Nat.and_two_pow_sub_one_eq_mod a.toNat 2
  rw [h, BitVec.toNat_sub, h3]
  have := a.isLt; omega

/-- The address of store j of a PREPARE that starts at adr. -/
def pushAddrFrom (adr : Word) (j : Nat) : Word := wordAlign (adr - BitVec.ofNat 32 (4 * (j + 1)))

theorem pushAddrFrom_ne (adr : Word) (i j k l : Nat) (hi : i < 100) (hj : j < 100) (hk : k < 4) (hl : l < 4) (h : i ≠ j) :
   pushAddrFrom adr i + BitVec.ofNat 32 k ≠ pushAddrFrom adr j + BitVec.ofNat 32 l := by
  intro e
  have e1 := congrArg BitVec.toNat e
  unfold pushAddrFrom at e1
  simp only [BitVec.toNat_add, wordAlign_toNat, BitVec.toNat_sub, BitVec.toNat_ofNat] at e1
  have := adr.isLt
  omega

/-- The state after the first n stores of the registers L downwards from adr. -/
def pushState (s : State) (adr : Word) (L : List Reg) (n : Nat) : State :=
  (L.take n).zipIdx.foldl (fun u p => u.busWrite (pushAddrFrom adr p.2) 4 (s.readReg p.1)) s

theorem pushState_succ (s : State) (adr : Word) (L : List Reg) (n : Nat) (h : n < L.length) :
    pushState s adr L (n + 1) = (pushState s adr L n).busWrite (pushAddrFrom adr n) 4 (s.readReg L[n]) := by
  unfold pushState
  rw [List.take_succ_eq_append_getElem h, List.zipIdx_append, List.foldl_append]
  simp [Nat.min_eq_left (Nat.le_of_lt h)]

/-- What the stores change: at most memory and what the platform sees. -/
theorem pushState_only (s : State) (adr : Word) (L : List Reg) (n : Nat) (h : n ≤ L.length) :
    OnlyAsked { s with mem := (pushState s adr L n).mem } (pushState s adr L n) := by
  induction n with
  | zero => rfl
  | succ n ih =>
    rw [pushState_succ _ _ _ _ (by omega)]
    have h1 := ih (by omega)
    have h2 := (onlyStored_busWrite (pushState s adr L n) (pushAddrFrom adr n) 4 (s.readReg L[n]) (by omega)).2
    generalize (pushState s adr L n).busWrite (pushAddrFrom adr n) 4 (s.readReg L[n]) = w at *
    unfold OnlyAsked at *
    rw [h2]
    generalize w.answers = b, w.events = e, w.mem = m
    rw [h1]

/-- The check of an access looks at the PSW, the area registers and the product only. -/
theorem violates_of_asked {s u : State} {m : List Host.Cell} {g : Vector Word 32} (acc : Access)
    (h : OnlyAsked { s with mem := m, gr := g } u) : u.violates acc = s.violates acc := by
  rw [h]; rfl

/-- A store to plain memory has no error, whatever was stored before it. -/
theorem pushState_ok {s : State} {adr : Word} {L : List Reg} {n : Nat} (h : n ≤ L.length)
    (hp : Plain s (pushAddrFrom adr n) 4 ∨ (pushState s adr L n).busError (pushAddrFrom adr n) 4 = none) :
    (pushState s adr L n).busError (pushAddrFrom adr n) 4 = none := by
  refine hp.elim (fun pl => busError_plain ?_) id
  rw [pushState_only s adr L n h]; exact pl

/-- The stores of a PREPARE before the first that violates the protection or has an error. -/
theorem pushRegs_run (L : List Reg) (adr : Word) (s : State) (n : Nat) (h : n ≤ L.length)
    (hp : ∀ j, j < n → s.violates (pushAccess (pushAddrFrom adr j)) = false)
    (he : ∀ j, j < n → Plain s (pushAddrFrom adr j) 4 ∨
      (pushState s adr L j).busError (pushAddrFrom adr j) 4 = none) :
    pushRegs L adr s = pushRegs (L.drop n) (adr - BitVec.ofNat 32 (4 * n)) (pushState s adr L n) := by
  induction n with
  | zero => simp [pushState]
  | succ n ih =>
    rw [ih (by omega) (fun j hj => hp j (by omega)) (fun j hj => he j (by omega)),
      List.drop_eq_getElem_cons (by omega), pushRegs]
    have ea : wordAlign (adr - BitVec.ofNat 32 (4 * n) - 4) = pushAddrFrom adr n := by
      unfold pushAddrFrom; congr 1; bv_omega
    have eb : adr - BitVec.ofNat 32 (4 * n) - 4 = adr - BitVec.ofNat 32 (4 * (n + 1)) := by bv_omega
    have ho := pushState_only s adr L n (by omega)
    have hv : (pushState s adr L n).violates (pushAccess (pushAddrFrom adr n)) = false := by
      rw [violates_of_asked _ ho]; exact hp n (by omega)
    have hr : (pushState s adr L n).readReg L[n] = s.readReg L[n] := by rw [ho]; rfl
    rw [ea, hv, pushState_ok (by omega) (he n (by omega)), eb, hr, ← pushState_succ _ _ _ _ (by omega)]
    simp

/-- What stands in memory after the first n stores. -/
theorem pushState_memory (s : State) (adr : Word) (L : List Reg) (hl : L.length < 100) (n : Nat) (h : n ≤ L.length) :
    (∀ j r, j < n → L[j]? = some r → Plain s (pushAddrFrom adr j) 4 →
      Stored (pushAddrFrom adr j) 4 (s.readReg r) (pushState s adr L n)) ∧
    ∀ b, (∀ j k, j < n → k < 4 → b ≠ pushAddrFrom adr j + BitVec.ofNat 32 k) →
      (pushState s adr L n).read8 b = s.read8 b := by
  induction n with
  | zero => exact ⟨by omega, fun _ _ => rfl⟩
  | succ n ih =>
    obtain ⟨h1, h2⟩ := ih (by omega)
    rw [pushState_succ _ _ _ _ (by omega)]
    have hw := onlyStored_busWrite (pushState s adr L n) (pushAddrFrom adr n) 4 (s.readReg L[n]) (by omega)
    refine ⟨fun j r hj hr pl k hk => ?_, fun b hb => ?_⟩
    · by_cases e : j = n
      · subst e
        have e2 : L[j] = r := by
          rw [List.getElem?_eq_getElem (by omega)] at hr; simpa using hr
        have pl' : Plain (pushState s adr L j) (pushAddrFrom adr j) 4 := by
          rw [pushState_only s adr L j (by omega)]; exact pl
        rw [busWrite_plain4 _ pl', e2]
        exact stored_write32 _ _ _ k hk
      · rw [hw.1 _ fun l hl' => pushAddrFrom_ne adr j n k l (by omega) (by omega) hk hl' e]
        exact h1 j r (by omega) hr pl k hk
    · rw [hw.1 b fun k hk => hb n k (by omega) hk]
      exact h2 b fun j k hj hk => hb j k (by omega) hk

theorem pushed_pushState (s t : State) (l : RegList) (n : Nat) (hl : (ascending l).length < 100) (h : n ≤ (ascending l).length)
    (ht : t.mem = (pushesDone s l n).mem) : Pushed l n s t := by
  have e : pushesDone s l n = pushState s (s.readReg 3) (ascending l) n := rfl
  obtain ⟨h1, h2⟩ := pushState_memory s (s.readReg 3) (ascending l) hl n h
  rw [← e] at h1 h2
  have hm : ∀ b, t.read8 b = (pushesDone s l n).read8 b := fun b => by simp only [State.read8, ht]
  refine ⟨fun j r hj hr pl k hk => ?_, fun b hb => ?_, hm, pushState_only s (s.readReg 3) (ascending l) n h⟩
  · rw [hm]; exact h1 j r hj hr pl k hk
  · rw [hm]; exact h2 b hb

/-! ## The loads of DISPOSE -/

/-- The registers do not meddle with what MemRead asks and gives. -/
theorem readCycle_withGr (s : State) (g : Vector Word 32) (a : Word) (n : Nat) :
    ({ s with gr := g } : State).readCycle a n = { s.readCycle a n with gr := g } := by
  have hi : ({ s with gr := g } : State).anyIo a n = s.anyIo a n := rfl
  unfold State.readCycle
  rw [hi]; split <;> rfl

theorem byteReads_withGr (s : State) (g : Vector Word 32) (a : Word) (k : Nat) :
    ({ s with gr := g } : State).byteReads a k = { s.byteReads a k with gr := g } := by
  unfold State.byteReads
  generalize List.range k = l
  induction l generalizing s with
  | nil => rfl
  | cons j l ih => simp only [List.foldl_cons, readCycle_withGr]; exact ih _

theorem byteError_withGr (s : State) (g : Vector Word 32) (a : Word) (k : Nat) :
    ({ s with gr := g } : State).byteError a k = s.byteError a k := by
  unfold State.byteError; rw [byteReads_withGr]; rfl

theorem busError_withGr (s : State) (g : Vector Word 32) (a : Word) (n : Nat) :
    ({ s with gr := g } : State).busError a n = s.busError a n := by
  unfold State.busError
  rw [funext (byteError_withGr s g a)]
  rfl

theorem byteCycles_withGr (s : State) (g : Vector Word 32) (a : Word) (n : Nat) :
    ({ s with gr := g } : State).byteCycles a n = s.byteCycles a n := by
  unfold State.byteCycles
  simp only [byteError_withGr]

theorem afterRead_withGr (s : State) (g : Vector Word 32) (a : Word) (n : Nat) :
    ({ s with gr := g } : State).afterRead a n = { s.afterRead a n with gr := g } := by
  unfold State.afterRead; split
  · exact readCycle_withGr ..
  · rw [byteCycles_withGr]; exact byteReads_withGr ..

theorem busByte_withGr (s : State) (g : Vector Word 32) (a : Word) (n k : Nat) :
    ({ s with gr := g } : State).busByte a n k = s.busByte a n k := by
  unfold State.busByte
  rw [byteReads_withGr]; rfl

/-- The state after the platform was asked for n loads of words upwards from adr. -/
def popState (s : State) (adr : Word) (n : Nat) : State :=
  (List.range n).foldl (fun u j => u.afterRead (wordAlign (adr + BitVec.ofNat 32 (4 * j))) 4) s

theorem popState_succ (s : State) (adr : Word) (n : Nat) :
    popState s adr (n + 1) = (popState s adr n).afterRead (wordAlign (adr + BitVec.ofNat 32 (4 * n))) 4 := by
  unfold popState; rw [List.range_succ, List.foldl_append]; rfl

theorem popState_only (s : State) (adr : Word) (n : Nat) : OnlyAsked s (popState s adr n) :=
  onlyAsked_foldl _ (fun _ _ => onlyAsked_afterRead ..) _ _

theorem popState_plain (s : State) (adr : Word) (n : Nat)
    (h : ∀ j, j < n → Plain s (wordAlign (adr + BitVec.ofNat 32 (4 * j))) 4) : popState s adr n = s := by
  induction n with
  | zero => rfl
  | succ n ih => rw [popState_succ, ih fun j hj => h j (by omega), afterRead_plain (h n (by omega))]

/-- A load of plain memory has no error, whatever was read before it. -/
theorem popState_ok {s : State} {adr a : Word} {n : Nat}
    (hp : Plain s a 4 ∨ (popState s adr n).busError a 4 = none) : (popState s adr n).busError a 4 = none := by
  refine hp.elim (fun pl => busError_plain ?_) id
  rw [popState_only s adr n]; exact pl

/-- The first n loads of a DISPOSE, when each is permitted and has no error. -/
theorem popRegs_run (L : List Reg) (adr : Word) (s : State) (hn : L.Nodup) (h0 : 0 ∉ L) (n : Nat) (hl : n ≤ L.length)
    (hp : ∀ j, j < n → s.violates (popAccess (wordAlign (adr + BitVec.ofNat 32 (4 * j)))) = false)
    (he : ∀ j, j < n → Plain s (wordAlign (adr + BitVec.ofNat 32 (4 * j))) 4 ∨
      (popState s adr j).busError (wordAlign (adr + BitVec.ofNat 32 (4 * j))) 4 = none) :
    ∃ g, popRegs L adr s = popRegs (L.drop n) (adr + BitVec.ofNat 32 (4 * n)) { popState s adr n with gr := g } ∧
      (∀ j r, j < n → L[j]? = some r → ({ s with gr := g } : State).readReg r =
        (popState s adr j).busRead32 (wordAlign (adr + BitVec.ofNat 32 (4 * j)))) ∧
      ∀ q, q ∉ L.take n → ({ s with gr := g } : State).readReg q = s.readReg q := by
  induction n with
  | zero => exact ⟨s.gr, by simp [popState], by omega, fun _ _ => rfl⟩
  | succ n ih =>
    obtain ⟨g, h1, h2, h3⟩ := ih (by omega) (fun j hj => hp j (by omega)) fun j hj => he j (by omega)
    have ho := popState_only s adr n
    have hv : ({ popState s adr n with gr := g } : State).violates
        (popAccess (wordAlign (adr + BitVec.ofNat 32 (4 * n)))) = false := by
      rw [ho]; exact hp n (by omega)
    have ea : adr + BitVec.ofNat 32 (4 * n) + 4 = adr + BitVec.ofNat 32 (4 * (n + 1)) := by bv_omega
    have hr0 : L[n] ≠ 0 := fun h => h0 (h ▸ List.getElem_mem _)
    have hread : ({ popState s adr n with gr := g } : State).busRead32 (wordAlign (adr + BitVec.ofNat 32 (4 * n))) =
        (popState s adr n).busRead32 (wordAlign (adr + BitVec.ofNat 32 (4 * n))) := by
      simp only [State.busRead32, busByte_withGr]
    generalize hx : (popState s adr n).busRead32 (wordAlign (adr + BitVec.ofNat 32 (4 * n))) = x at hread
    have hwr : ∀ u : State, u.writeReg L[n] x = { u with gr := u.gr.set L[n].toNat x L[n].isLt } := by
      intro u; unfold State.writeReg; rw [if_neg hr0]
    refine ⟨g.set L[n].toNat x L[n].isLt, ?_, ?_, ?_⟩
    · rw [h1, List.drop_eq_getElem_cons (by omega), popRegs, hv, ea, busError_withGr,
        popState_ok (he n (by omega)), afterRead_withGr, ← popState_succ, hread, hwr]
      simp
    · intro j r hj hr
      have e : ({ s with gr := g.set L[n].toNat x L[n].isLt } : State) = ({ s with gr := g } : State).writeReg L[n] x := by
        rw [hwr]
      rw [e, readReg_writeReg]
      by_cases hjn : j = n
      · subst hjn
        have : L[j] = r := by rw [List.getElem?_eq_getElem (by omega)] at hr; simpa using hr
        rw [if_pos this.symm, written, if_neg hr0, hx]
      · have : r ≠ L[n] := by
          rw [List.getElem?_eq_getElem (by omega)] at hr
          intro e'
          have e2 : L[j] = L[n] := by simpa [e'] using hr
          exact hjn (List.getElem_inj hn |>.mp e2)
        rw [if_neg this]; exact h2 j r (by omega) hr
    · intro q hq
      rw [List.take_succ_eq_append_getElem (by omega), List.mem_append, List.mem_singleton, not_or] at hq
      have e : ({ s with gr := g.set L[n].toNat x L[n].isLt } : State) = ({ s with gr := g } : State).writeReg L[n] x := by
        rw [hwr]
      rw [e, readReg_writeReg_other _ _ hq.2]
      exact h3 q hq.1

theorem ascending_length_le (l : RegList) : (ascending l).length ≤ 12 := by
  unfold ascending; rw [List.length_map]; exact List.length_filter_le ..

theorem descending_nodup (l : RegList) : (descending l).Nodup ∧ 0 ∉ descending l ∧ 3 ∉ descending l := by
  have h : (ascending l).Sublist (listTable.map Prod.fst) := List.Sublist.map _ List.filter_sublist
  unfold descending
  refine ⟨(by unfold List.Nodup; rw [List.pairwise_reverse]; exact (List.Nodup.sublist h (by decide)).imp Ne.symm), fun c => ?_, fun c => ?_⟩
  · have := h.subset (List.mem_reverse.mp c); revert this; decide
  · have := h.subset (List.mem_reverse.mp c); revert this; decide

theorem popAddr_eq (s : State) (i : BitVec 5) (j : Nat) : popAddr s i j = wordAlign (s.readReg 3 + frameBytes i + BitVec.ofNat 32 (4 * j)) := by
  unfold popAddr; rw [frameBytes_eq]; congr 1; bv_omega

theorem descending_length (l : RegList) : (descending l).length = (ascending l).length := by simp [descending]

/-! ## LDSR (R463, R44) -/

theorem ldsrFrame_of (s u : State) (hg : u.gr = s.gr) (hm : u.mem = s.mem) (h1 : MachineSame s u) (he : u.events = s.events) (hp : u.pc = s.pc) : LdsrFrame s (u.advance 4) := by
  refine ⟨fun q _ => ?_, fun a => ?_, h1, he, ?_⟩
  · simp [State.readReg, hg]
  · simp [State.read8, hm]
  · simp [Falls, State.advance, State.setPc, hp]

theorem mask_F1FF_bit (k : Nat) : (0xFFFFF1FF : Word).getLsbD k = decide (k < 9 ∨ (12 ≤ k ∧ k < 32)) := mask_bit (p := fun k => k < 9 ∨ (12 ≤ k ∧ k < 32)) (by decide) k

theorem mask_E00_bit (k : Nat) : (0x00000E00 : Word).getLsbD k = decide (9 ≤ k ∧ k < 12) := mask_bit (p := fun k => 9 ≤ k ∧ k < 12) (by decide) k

theorem mask_FFC0_bit (k : Nat) : (0xFFFFFFC0 : Word).getLsbD k = decide (6 ≤ k ∧ k < 32) := mask_bit (p := fun k => 6 ≤ k ∧ k < 32) (by decide) k

theorem mask_3F_bit (k : Nat) : (0x3F : Word).getLsbD k = decide (k < 6) := mask_bit (p := fun k => k < 6) (by decide) k

/-- Each bit of the PSW that LDSR writes in the T state. -/
theorem ldsrPsw_bit (s : State) (v : Word) (k : Nat) : (s.ldsrPsw v).getLsbD k = 
   (if k < 8 then v.getLsbD k else if 9 ≤ k ∧ k < 12 then s.psw.getLsbD k else if k = 16 ∨ k = 17 then s.mpe && v.getLsbD k else if k = 18 then s.mpe && s.aue && v.getLsbD k else false) := by
  unfold State.ldsrPsw
  rw [legalPsw_bit]
  simp only [BitVec.getLsbD_or, BitVec.getLsbD_and, mask_F1FF_bit, mask_E00_bit, State.mpe, State.aue]
  grind

/-! ## Protection (R102, R141) -/

theorem inSpace_iff (a : Word) : inSpace a = true ↔ a.toNat < 0x02000000 ∨ 0xFE000000 ≤ a.toNat := by
  unfold inSpace sext26
  have h1 : (a.extractLsb' 0 26).toNat = a.toNat % 2^26 := by simp [BitVec.extractLsb'_toNat]
  have h2 : (a.extractLsb' 0 26).msb = decide (2^25 ≤ a.toNat % 2^26) := by rw [BitVec.msb_eq_decide, h1]
  rw [beq_iff_eq, ← BitVec.toNat_inj, BitVec.toNat_signExtend]
  rw [h2, BitVec.toNat_setWidth, h1]
  have := a.isLt
  by_cases h : 2^25 ≤ a.toNat % 2^26
  · rw [decide_eq_true h]; simp; omega
  · rw [decide_eq_false h]; simp; omega

/-! ## A step (R513) -/

/-- A step on which nothing is accepted. -/
theorem step_run (s : State) (hh : s.halted = false) (h : NothingAccepted s) : step s = s.popSample.runInstruction s.sample.mep := by
  obtain ⟨a1, a2, a3, a4, a5⟩ := h
  have hacc : s.popSample.accepted s.sample = none := by
    unfold State.accepted
    rw [a2, a3]; simp only [Bool.false_eq_true, if_false]
    have e1 : s.popSample.pswNP = s.pswNP := rfl
    have e2 : s.popSample.pswID = s.pswID := rfl
    have : (s.sample.feint && !s.pswNP) = false := by
      cases hf : s.sample.feint
      · rfl
      · simp [a4 hf]
    rw [e1, e2, this]; simp only [Bool.false_eq_true, if_false]
    cases hint : s.sample.int with
    | none => rfl
    | some n =>
      have := a5 (by simp [hint])
      simp only [ite_eq_right_iff, reduceCtorEq, imp_false]
      rcases this with h | h <;> simp [h]
  have hw : ({ s.popSample with halted := false } : State) = s.popSample := by
    unfold State.popSample; rw [← hh]
  have h1' : s.popSample.halted = false := hh
  unfold step cycle State.cycleWith State.runStep
  rw [a1, h1', hw, hacc]; rfl

end Sys2Proof.Laws
end

