-- ==== Sys2Proof/Laws/PerInstr.lean ====
section
/-! SUPPORT. What is said of every instruction as syntax, one lemma per constructor: the length that the decoder reads off the
first two halfwords of an encoding is the length of the encoding (R188, R199). -/

namespace Sys2Proof.Laws

open Sys2Proof

set_option linter.unusedSimpArgs false

/-- The length by R188 of a well-formed instruction's code is the length of its encoding, whatever follows a 16-bit code. -/
def EncodeLength.Statement (i : Instr) : Prop :=
  i.WellFormed → ∀ h : Half, instrBytes ((encode i).getD 0 0) ((encode i).getD 1 h) = 2 * (encode i).length

/-- The length is read off the first halfword where its bits 10-9 are not 11, but for JR and JARL disp32. -/
theorem length_short {h1 h2 : Half} (h : h1.extractLsb' 9 2 ≠ 0b11#2) (h' : fOp4 h1 ≠ 0b0101) : instrBytes h1 h2 = 2 := by
  unfold instrBytes; rw [if_pos h, if_neg]; grind

/-- The 32-bit codes of op6 = 11xxxx whose reg2 is not 00000. -/
theorem length_reg {h1 h2 : Half} (h : h1.extractLsb' 9 2 = 0b11#2) (h' : fReg2 h1 ≠ 0) : instrBytes h1 h2 = 4 := by
  unfold instrBytes; rw [if_neg (by simp [h]), if_neg (by simp_all), if_neg (by simp_all), if_neg (by simp_all)]

/-- The 32-bit codes that are 32-bit whatever their reg2. -/
theorem length_op {h1 h2 : Half} (h : h1.extractLsb' 9 2 = 0b11#2) (h0 : fOp4 h1 ≠ 0b1100 ∨ fOp2 h1 ≠ 0b01)
    (h3 : fOp4 h1 ≠ 0b1101 ∨ fOp2 h1 ≠ 0b11) (h4 : fOp4 h1 ≠ 0b1111 ∨ h1.extractLsb' 6 1 ≠ 0#1) :
    instrBytes h1 h2 = 4 := by
  unfold instrBytes
  rw [if_neg (by simp [h]), if_neg (by grind), if_neg (by grind), if_neg (by grind)]

theorem length_opHalf_short {r R : Reg} {op : BitVec 6} {h2 : Half} (h : op.extractLsb' 4 2 ≠ 0b11#2)
    (h' : op.extractLsb' 2 4 ≠ 0b0101#4) : instrBytes (opHalf r op R) h2 = 2 :=
  length_short (by simpa [opHalf, cat3_mid] using h) (by simpa [fOp4, opHalf, cat3_mid] using h')

theorem length_opHalf_reg {r R : Reg} {op : BitVec 6} {h2 : Half} (h : op.extractLsb' 4 2 = 0b11#2) (hr : (r != 0) = true) :
    instrBytes (opHalf r op R) h2 = 4 :=
  length_reg (by simpa [opHalf, cat3_mid] using h) (by simpa [fReg2, opHalf, cat3_hi] using hr)

theorem length_opHalf {r R : Reg} {op : BitVec 6} {h2 : Half}
    (h : op.extractLsb' 4 2 = 0b11#2 ∧ op ≠ 0b110001 ∧ op ≠ 0b110111 ∧ op ≠ 0b111100 ∧ op ≠ 0b111101) :
    instrBytes (opHalf r op R) h2 = 4 := by
  have key : ∀ op : BitVec 6, op.extractLsb' 4 2 = 0b11#2 ∧ op ≠ 0b110001 ∧ op ≠ 0b110111 ∧ op ≠ 0b111100 ∧ op ≠ 0b111101 →
      (op.extractLsb' 2 4 ≠ 0b1100#4 ∨ op.extractLsb' 0 2 ≠ 0b01#2) ∧ (op.extractLsb' 2 4 ≠ 0b1101#4 ∨ op.extractLsb' 0 2 ≠ 0b11#2) ∧
      (op.extractLsb' 2 4 ≠ 0b1111#4 ∨ op.extractLsb' 1 1 ≠ 0#1) := by decide
  obtain ⟨k1, k2, k3⟩ := key op h
  exact length_op (by simpa [opHalf, cat3_mid] using h.1) (by simpa [fOp4, fOp2, opHalf, cat3_mid] using k1)
    (by simpa [fOp4, fOp2, opHalf, cat3_mid] using k2) (by simpa [fOp4, opHalf, cat3_mid] using k3)

/-- Low bits that differ make the field differ. -/
theorem low5_ne {h : Half} (h4 : h.extractLsb' 0 4 ≠ 0b0001#4) : h.extractLsb' 0 5 ≠ 0b00001#5 := by
  intro e; apply h4
  have : h.extractLsb' 0 4 = (h.extractLsb' 0 5).extractLsb' 0 4 := by
    apply BitVec.eq_of_getLsbD_eq; intro i hi; simp
  rw [this, e]; decide

/-- A set bit 6 makes bits 6-5 differ from 01. -/
theorem op2_ne {h : Half} (h6 : h.extractLsb' 6 1 = 1#1) : h.extractLsb' 5 2 ≠ 0b01#2 := by
  intro e
  have : h.extractLsb' 6 1 = (h.extractLsb' 5 2).extractLsb' 1 1 := by
    apply BitVec.eq_of_getLsbD_eq; intro i hi; simp [Nat.add_assoc]; grind
  rw [this, e] at h6; exact absurd h6 (by decide)

theorem EncodeLength.nop : EncodeLength.Statement .nop := 
  fun _ _ => length_short (by decide) (by decide)
theorem EncodeLength.synce : EncodeLength.Statement .synce := 
  fun _ _ => length_short (by decide) (by decide)
theorem EncodeLength.syncm : EncodeLength.Statement .syncm := 
  fun _ _ => length_short (by decide) (by decide)
theorem EncodeLength.syncp : EncodeLength.Statement .syncp := 
  fun _ _ => length_short (by decide) (by decide)
theorem EncodeLength.mov (reg1 reg2 : Reg) : EncodeLength.Statement (.mov reg1 reg2) := 
  fun _ _ => length_opHalf_short (by decide) (by decide)
theorem EncodeLength.not (reg1 reg2 : Reg) : EncodeLength.Statement (.not reg1 reg2) := 
  fun _ _ => length_opHalf_short (by decide) (by decide)
theorem EncodeLength.rie : EncodeLength.Statement .rie := 
  fun _ _ => length_short (by decide) (by decide)
theorem EncodeLength.switch (reg1 : Reg) : EncodeLength.Statement (.switch reg1) := 
  fun _ _ => length_opHalf_short (by decide) (by decide)
theorem EncodeLength.fetrap (vector4 : BitVec 4) : EncodeLength.Statement (.fetrap vector4) := 
  fun _ _ => length_short (by simp [encode, cat3_lo, cat3_mid, cat3_hi]) (by simp [encode, fOp4, cat3_lo, cat3_mid, cat3_hi])
theorem EncodeLength.divh (reg1 reg2 : Reg) : EncodeLength.Statement (.divh reg1 reg2) := 
  fun _ _ => length_opHalf_short (by decide) (by decide)
theorem EncodeLength.jmp (reg1 : Reg) : EncodeLength.Statement (.jmp reg1) := 
  fun _ _ => length_opHalf_short (by decide) (by decide)
theorem EncodeLength.sldBu (disp4 : BitVec 4) (reg2 : Reg) : EncodeLength.Statement (.sldBu disp4 reg2) := 
  fun _ _ => length_short (by simp [encode, cat3_lo, cat3_mid, cat3_hi]) (by simp [encode, fOp4, cat3_lo, cat3_mid, cat3_hi])
theorem EncodeLength.sldHu (disp4 : BitVec 4) (reg2 : Reg) : EncodeLength.Statement (.sldHu disp4 reg2) := 
  fun _ _ => length_short (by simp [encode, cat3_lo, cat3_mid, cat3_hi]) (by simp [encode, fOp4, cat3_lo, cat3_mid, cat3_hi])
theorem EncodeLength.zxb (reg1 : Reg) : EncodeLength.Statement (.zxb reg1) := 
  fun _ _ => length_opHalf_short (by decide) (by decide)
theorem EncodeLength.sxb (reg1 : Reg) : EncodeLength.Statement (.sxb reg1) := 
  fun _ _ => length_opHalf_short (by decide) (by decide)
theorem EncodeLength.zxh (reg1 : Reg) : EncodeLength.Statement (.zxh reg1) := 
  fun _ _ => length_opHalf_short (by decide) (by decide)
theorem EncodeLength.sxh (reg1 : Reg) : EncodeLength.Statement (.sxh reg1) := 
  fun _ _ => length_opHalf_short (by decide) (by decide)
theorem EncodeLength.satsubr (reg1 reg2 : Reg) : EncodeLength.Statement (.satsubr reg1 reg2) := 
  fun _ _ => length_opHalf_short (by decide) (by decide)
theorem EncodeLength.satsub (reg1 reg2 : Reg) : EncodeLength.Statement (.satsub reg1 reg2) := 
  fun _ _ => length_opHalf_short (by decide) (by decide)
theorem EncodeLength.satadd (reg1 reg2 : Reg) : EncodeLength.Statement (.satadd reg1 reg2) := 
  fun _ _ => length_opHalf_short (by decide) (by decide)
theorem EncodeLength.mulh (reg1 reg2 : Reg) : EncodeLength.Statement (.mulh reg1 reg2) := 
  fun _ _ => length_opHalf_short (by decide) (by decide)
theorem EncodeLength.or (reg1 reg2 : Reg) : EncodeLength.Statement (.or reg1 reg2) := 
  fun _ _ => length_opHalf_short (by decide) (by decide)
theorem EncodeLength.xor (reg1 reg2 : Reg) : EncodeLength.Statement (.xor reg1 reg2) := 
  fun _ _ => length_opHalf_short (by decide) (by decide)
theorem EncodeLength.and (reg1 reg2 : Reg) : EncodeLength.Statement (.and reg1 reg2) := 
  fun _ _ => length_opHalf_short (by decide) (by decide)
theorem EncodeLength.tst (reg1 reg2 : Reg) : EncodeLength.Statement (.tst reg1 reg2) := 
  fun _ _ => length_opHalf_short (by decide) (by decide)
theorem EncodeLength.subr (reg1 reg2 : Reg) : EncodeLength.Statement (.subr reg1 reg2) := 
  fun _ _ => length_opHalf_short (by decide) (by decide)
theorem EncodeLength.sub (reg1 reg2 : Reg) : EncodeLength.Statement (.sub reg1 reg2) := 
  fun _ _ => length_opHalf_short (by decide) (by decide)
theorem EncodeLength.add (reg1 reg2 : Reg) : EncodeLength.Statement (.add reg1 reg2) := 
  fun _ _ => length_opHalf_short (by decide) (by decide)
theorem EncodeLength.cmp (reg1 reg2 : Reg) : EncodeLength.Statement (.cmp reg1 reg2) := 
  fun _ _ => length_opHalf_short (by decide) (by decide)
theorem EncodeLength.movImm5 (imm5 : BitVec 5) (reg2 : Reg) : EncodeLength.Statement (.movImm5 imm5 reg2) := 
  fun _ _ => length_opHalf_short (by decide) (by decide)
theorem EncodeLength.sataddImm5 (imm5 : BitVec 5) (reg2 : Reg) : EncodeLength.Statement (.sataddImm5 imm5 reg2) := 
  fun _ _ => length_opHalf_short (by decide) (by decide)
theorem EncodeLength.addImm5 (imm5 : BitVec 5) (reg2 : Reg) : EncodeLength.Statement (.addImm5 imm5 reg2) := 
  fun _ _ => length_opHalf_short (by decide) (by decide)
theorem EncodeLength.cmpImm5 (imm5 : BitVec 5) (reg2 : Reg) : EncodeLength.Statement (.cmpImm5 imm5 reg2) := 
  fun _ _ => length_opHalf_short (by decide) (by decide)
theorem EncodeLength.callt (imm6 : BitVec 6) : EncodeLength.Statement (.callt imm6) := 
  fun _ _ => length_short (by simp [encode, cat2_lo, cat2_hi]) (by simp [encode, fOp4, cat2_lo, cat2_hi])
theorem EncodeLength.shrImm5 (imm5 : BitVec 5) (reg2 : Reg) : EncodeLength.Statement (.shrImm5 imm5 reg2) := by
  intro _ h; simp [encode, instrBytes, opHalf, fOp4, fOp2, fReg2, cat3_mid, cat3_hi]
theorem EncodeLength.sarImm5 (imm5 : BitVec 5) (reg2 : Reg) : EncodeLength.Statement (.sarImm5 imm5 reg2) := by
  intro _ h; simp [encode, instrBytes, opHalf, fOp4, fOp2, fReg2, cat3_mid, cat3_hi]
theorem EncodeLength.shlImm5 (imm5 : BitVec 5) (reg2 : Reg) : EncodeLength.Statement (.shlImm5 imm5 reg2) := by
  intro _ h; simp [encode, instrBytes, opHalf, fOp4, fOp2, fReg2, cat3_mid, cat3_hi]
theorem EncodeLength.mulhImm5 (imm5 : BitVec 5) (reg2 : Reg) : EncodeLength.Statement (.mulhImm5 imm5 reg2) := by
  intro hw h; simp_all [Instr.WellFormed, Instr.wellFormed, encode, instrBytes, opHalf, fOp4, fOp2, fReg2, cat3_lo, cat3_mid, cat3_hi]
theorem EncodeLength.jrDisp32 (disp31 : BitVec 31) : EncodeLength.Statement (.jrDisp32 disp31) := by
  intro hw h; simp_all [Instr.WellFormed, Instr.wellFormed, encode, instrBytes, fOp4, fOp2, fReg2, fBit16, fSub5, cat2_lo, cat2_hi]
theorem EncodeLength.jarlDisp32 (disp31 : BitVec 31) (reg1 : Reg) : EncodeLength.Statement (.jarlDisp32 disp31 reg1) := by
  intro hw h; simp_all [Instr.WellFormed, Instr.wellFormed, encode, instrBytes, opHalf, fOp4, fOp2, fReg2, fBit16, fSub5, cat2_lo, cat2_hi, cat3_lo, cat3_mid, cat3_hi]
theorem EncodeLength.sldB (disp7 : BitVec 7) (reg2 : Reg) : EncodeLength.Statement (.sldB disp7 reg2) := 
  fun _ _ => length_short (by simp [encode, cat3_lo, cat3_mid, cat3_hi]) (by simp [encode, fOp4, cat3_lo, cat3_mid, cat3_hi])
theorem EncodeLength.sstB (reg2 : Reg) (disp7 : BitVec 7) : EncodeLength.Statement (.sstB reg2 disp7) := 
  fun _ _ => length_short (by simp [encode, cat3_lo, cat3_mid, cat3_hi]) (by simp [encode, fOp4, cat3_lo, cat3_mid, cat3_hi])
theorem EncodeLength.sldH (disp7 : BitVec 7) (reg2 : Reg) : EncodeLength.Statement (.sldH disp7 reg2) := 
  fun _ _ => length_short (by simp [encode, cat3_lo, cat3_mid, cat3_hi]) (by simp [encode, fOp4, cat3_lo, cat3_mid, cat3_hi])
theorem EncodeLength.sstH (reg2 : Reg) (disp7 : BitVec 7) : EncodeLength.Statement (.sstH reg2 disp7) := 
  fun _ _ => length_short (by simp [encode, cat3_lo, cat3_mid, cat3_hi]) (by simp [encode, fOp4, cat3_lo, cat3_mid, cat3_hi])
theorem EncodeLength.sldW (disp6 : BitVec 6) (reg2 : Reg) : EncodeLength.Statement (.sldW disp6 reg2) := 
  fun _ _ => length_short (by simp [encode, cat4_0, cat4_1, cat4_2, cat4_3]) (by simp [encode, fOp4, cat4_0, cat4_1, cat4_2, cat4_3])
theorem EncodeLength.sstW (reg2 : Reg) (disp6 : BitVec 6) : EncodeLength.Statement (.sstW reg2 disp6) := 
  fun _ _ => length_short (by simp [encode, cat4_0, cat4_1, cat4_2, cat4_3]) (by simp [encode, fOp4, cat4_0, cat4_1, cat4_2, cat4_3])
theorem EncodeLength.bcond (cccc : Cond) (disp8 : BitVec 8) : EncodeLength.Statement (.bcond cccc disp8) := 
  fun _ _ => length_short (by simp [encode, cat4_0, cat4_1, cat4_2, cat4_3]) (by simp [encode, fOp4, cat4_0, cat4_1, cat4_2, cat4_3])
theorem EncodeLength.addi (imm16 : Half) (reg1 reg2 : Reg) : EncodeLength.Statement (.addi imm16 reg1 reg2) := 
  fun _ _ => length_opHalf (by decide)
theorem EncodeLength.movImm32 (imm32 : Word) (reg1 : Reg) : EncodeLength.Statement (.movImm32 imm32 reg1) := by
  intro hw h; simp_all [Instr.WellFormed, Instr.wellFormed, encode, instrBytes, opHalf, fOp4, fOp2, fReg2, fBit16, fSub5, cat3_lo, cat3_mid, cat3_hi]
theorem EncodeLength.movea (imm16 : Half) (reg1 reg2 : Reg) : EncodeLength.Statement (.movea imm16 reg1 reg2) := 
  fun hw _ => length_opHalf_reg (by decide) hw
theorem EncodeLength.movhi (imm16 : Half) (reg1 reg2 : Reg) : EncodeLength.Statement (.movhi imm16 reg1 reg2) := 
  fun _ _ => length_opHalf (by decide)
theorem EncodeLength.satsubi (imm16 : Half) (reg1 reg2 : Reg) : EncodeLength.Statement (.satsubi imm16 reg1 reg2) := 
  fun _ _ => length_opHalf (by decide)
theorem EncodeLength.dispose (imm5 : BitVec 5) (list12 : RegList) : EncodeLength.Statement (.dispose imm5 list12) := by
  intro _ h; exact length_op (by simp [encode, stackHalf, cat4_2]) (.inr (op2_ne (by simp [encode, stackHalf, cat4_2])))
    (.inl (by simp [encode, fOp4, stackHalf, cat4_2])) (.inl (by simp [encode, fOp4, stackHalf, cat4_2]))
theorem EncodeLength.disposeJmp (imm5 : BitVec 5) (list12 : RegList) (reg1 : Reg) : EncodeLength.Statement (.disposeJmp imm5 list12 reg1) := by
  intro _ h; exact length_op (by simp [encode, stackHalf, cat4_2]) (.inr (op2_ne (by simp [encode, stackHalf, cat4_2])))
    (.inl (by simp [encode, fOp4, stackHalf, cat4_2])) (.inl (by simp [encode, fOp4, stackHalf, cat4_2]))
theorem EncodeLength.ori (imm16 : Half) (reg1 reg2 : Reg) : EncodeLength.Statement (.ori imm16 reg1 reg2) := 
  fun _ _ => length_opHalf (by decide)
theorem EncodeLength.xori (imm16 : Half) (reg1 reg2 : Reg) : EncodeLength.Statement (.xori imm16 reg1 reg2) := 
  fun _ _ => length_opHalf (by decide)
theorem EncodeLength.andi (imm16 : Half) (reg1 reg2 : Reg) : EncodeLength.Statement (.andi imm16 reg1 reg2) := 
  fun _ _ => length_opHalf (by decide)
theorem EncodeLength.mulhi (imm16 : Half) (reg1 reg2 : Reg) : EncodeLength.Statement (.mulhi imm16 reg1 reg2) := 
  fun hw _ => length_opHalf_reg (by decide) hw
theorem EncodeLength.jmpDisp32 (disp31 : BitVec 31) (reg1 : Reg) : EncodeLength.Statement (.jmpDisp32 disp31 reg1) := by
  intro hw h; simp_all [Instr.WellFormed, Instr.wellFormed, encode, instrBytes, opHalf, fOp4, fOp2, fReg2, fBit16, fSub5, cat2_lo, cat2_hi, cat3_lo, cat3_mid, cat3_hi]
theorem EncodeLength.ldB (disp16 : Half) (reg1 reg2 : Reg) : EncodeLength.Statement (.ldB disp16 reg1 reg2) := 
  fun _ _ => length_opHalf (by decide)
theorem EncodeLength.ldH (disp15 : BitVec 15) (reg1 reg2 : Reg) : EncodeLength.Statement (.ldH disp15 reg1 reg2) := 
  fun _ _ => length_opHalf (by decide)
theorem EncodeLength.ldW (disp15 : BitVec 15) (reg1 reg2 : Reg) : EncodeLength.Statement (.ldW disp15 reg1 reg2) := 
  fun _ _ => length_opHalf (by decide)
theorem EncodeLength.stB (reg2 : Reg) (disp16 : Half) (reg1 : Reg) : EncodeLength.Statement (.stB reg2 disp16 reg1) := 
  fun _ _ => length_opHalf (by decide)
theorem EncodeLength.stH (reg2 : Reg) (disp15 : BitVec 15) (reg1 : Reg) : EncodeLength.Statement (.stH reg2 disp15 reg1) := 
  fun _ _ => length_opHalf (by decide)
theorem EncodeLength.stW (reg2 : Reg) (disp15 : BitVec 15) (reg1 : Reg) : EncodeLength.Statement (.stW reg2 disp15 reg1) := 
  fun _ _ => length_opHalf (by decide)
theorem EncodeLength.prepare (list12 : RegList) (imm5 : BitVec 5) : EncodeLength.Statement (.prepare list12 imm5) := by
  intro hw h; simp_all [Instr.WellFormed, Instr.wellFormed, encode, instrBytes, stackHalf, listHalf, fOp4, fOp2, fReg2, fBit16, fSub5, cat2_lo, cat2_hi, cat4_0, cat4_1, cat4_2, cat4_3]
theorem EncodeLength.prepareSp (list12 : RegList) (imm5 : BitVec 5) : EncodeLength.Statement (.prepareSp list12 imm5) := by
  intro hw h; simp_all [Instr.WellFormed, Instr.wellFormed, encode, instrBytes, stackHalf, listHalf, fOp4, fOp2, fReg2, fBit16, fSub5, cat2_lo, cat2_hi, cat4_0, cat4_1, cat4_2, cat4_3]
theorem EncodeLength.prepareImm16 (list12 : RegList) (imm5 : BitVec 5) (imm16 : Half) : EncodeLength.Statement (.prepareImm16 list12 imm5 imm16) := by
  intro hw h; simp_all [Instr.WellFormed, Instr.wellFormed, encode, instrBytes, stackHalf, listHalf, fOp4, fOp2, fReg2, fBit16, fSub5, cat2_lo, cat2_hi, cat4_0, cat4_1, cat4_2, cat4_3]
theorem EncodeLength.prepareImm16Hi (list12 : RegList) (imm5 : BitVec 5) (imm16 : Half) : EncodeLength.Statement (.prepareImm16Hi list12 imm5 imm16) := by
  intro hw h; simp_all [Instr.WellFormed, Instr.wellFormed, encode, instrBytes, stackHalf, listHalf, fOp4, fOp2, fReg2, fBit16, fSub5, cat2_lo, cat2_hi, cat4_0, cat4_1, cat4_2, cat4_3]
theorem EncodeLength.prepareImm32 (list12 : RegList) (imm5 : BitVec 5) (imm32 : Word) : EncodeLength.Statement (.prepareImm32 list12 imm5 imm32) := by
  intro hw h; simp_all [Instr.WellFormed, Instr.wellFormed, encode, instrBytes, stackHalf, listHalf, fOp4, fOp2, fReg2, fBit16, fSub5, cat2_lo, cat2_hi, cat4_0, cat4_1, cat4_2, cat4_3]
theorem EncodeLength.ldBDisp23 (disp23 : BitVec 23) (reg1 reg3 : Reg) : EncodeLength.Statement (.ldBDisp23 disp23 reg1 reg3) := by
  have n5 : (cat3 reg3 (disp23.extractLsb' 0 7) 0b0101#4).extractLsb' 0 5 ≠ 0b00001#5 :=
    low5_ne (by simp [cat3_lo])
  intro hw h; simp_all [n5, Instr.WellFormed, Instr.wellFormed, encode, instrBytes, opHalf, fOp4, fOp2, fReg2, fBit16, fSub5, cat3_lo, cat3_mid, cat3_hi]
theorem EncodeLength.ldHDisp23 (disp22h : BitVec 22) (reg1 reg3 : Reg) : EncodeLength.Statement (.ldHDisp23 disp22h reg1 reg3) := by
  intro hw h; simp_all [Instr.WellFormed, Instr.wellFormed, encode, instrBytes, opHalf, fOp4, fOp2, fReg2, fBit16, fSub5, cat3_lo, cat3_mid, cat3_hi]
theorem EncodeLength.ldWDisp23 (disp22h : BitVec 22) (reg1 reg3 : Reg) : EncodeLength.Statement (.ldWDisp23 disp22h reg1 reg3) := by
  intro hw h; simp_all [Instr.WellFormed, Instr.wellFormed, encode, instrBytes, opHalf, fOp4, fOp2, fReg2, fBit16, fSub5, cat3_lo, cat3_mid, cat3_hi]
theorem EncodeLength.stBDisp23 (reg3 : Reg) (disp23 : BitVec 23) (reg1 : Reg) : EncodeLength.Statement (.stBDisp23 reg3 disp23 reg1) := by
  have n5 : (cat3 reg3 (disp23.extractLsb' 0 7) 0b1101#4).extractLsb' 0 5 ≠ 0b00001#5 :=
    low5_ne (by simp [cat3_lo])
  intro hw h; simp_all [n5, Instr.WellFormed, Instr.wellFormed, encode, instrBytes, opHalf, fOp4, fOp2, fReg2, fBit16, fSub5, cat3_lo, cat3_mid, cat3_hi]
theorem EncodeLength.stWDisp23 (reg3 : Reg) (disp22h : BitVec 22) (reg1 : Reg) : EncodeLength.Statement (.stWDisp23 reg3 disp22h reg1) := by
  intro hw h; simp_all [Instr.WellFormed, Instr.wellFormed, encode, instrBytes, opHalf, fOp4, fOp2, fReg2, fBit16, fSub5, cat3_lo, cat3_mid, cat3_hi]
theorem EncodeLength.ldBuDisp23 (disp23 : BitVec 23) (reg1 reg3 : Reg) : EncodeLength.Statement (.ldBuDisp23 disp23 reg1 reg3) := by
  have n5 : (cat3 reg3 (disp23.extractLsb' 0 7) 0b0101#4).extractLsb' 0 5 ≠ 0b00001#5 :=
    low5_ne (by simp [cat3_lo])
  intro hw h; simp_all [n5, Instr.WellFormed, Instr.wellFormed, encode, instrBytes, opHalf, fOp4, fOp2, fReg2, fBit16, fSub5, cat3_lo, cat3_mid, cat3_hi]
theorem EncodeLength.ldHuDisp23 (disp22h : BitVec 22) (reg1 reg3 : Reg) : EncodeLength.Statement (.ldHuDisp23 disp22h reg1 reg3) := by
  intro hw h; simp_all [Instr.WellFormed, Instr.wellFormed, encode, instrBytes, opHalf, fOp4, fOp2, fReg2, fBit16, fSub5, cat3_lo, cat3_mid, cat3_hi]
theorem EncodeLength.stHDisp23 (reg3 : Reg) (disp22h : BitVec 22) (reg1 : Reg) : EncodeLength.Statement (.stHDisp23 reg3 disp22h reg1) := by
  intro hw h; simp_all [Instr.WellFormed, Instr.wellFormed, encode, instrBytes, opHalf, fOp4, fOp2, fReg2, fBit16, fSub5, cat3_lo, cat3_mid, cat3_hi]
theorem EncodeLength.jrDisp22 (disp21 : BitVec 21) : EncodeLength.Statement (.jrDisp22 disp21) := by
  intro hw h; simp_all [Instr.WellFormed, Instr.wellFormed, encode, instrBytes, fOp4, fOp2, fReg2, fBit16, fSub5, cat2_lo, cat2_hi]
theorem EncodeLength.jarlDisp22 (disp21 : BitVec 21) (reg2 : Reg) : EncodeLength.Statement (.jarlDisp22 disp21 reg2) := by
  intro hw h; simp_all [Instr.WellFormed, Instr.wellFormed, encode, instrBytes, fOp4, fOp2, fReg2, fBit16, fSub5, cat2_lo, cat2_hi, cat3_lo, cat3_mid, cat3_hi]
theorem EncodeLength.ldBu (disp16 : Half) (reg1 reg2 : Reg) : EncodeLength.Statement (.ldBu disp16 reg1 reg2) := by
  intro hw h; simp_all [Instr.WellFormed, Instr.wellFormed, encode, instrBytes, fOp4, fOp2, fReg2, fBit16, fSub5, cat2_lo, cat2_hi, cat4_0, cat4_1, cat4_2, cat4_3]
theorem EncodeLength.set1 (bit3 : BitVec 3) (disp16 : Half) (reg1 : Reg) : EncodeLength.Statement (.set1 bit3 disp16 reg1) := by
  intro hw h; simp_all [Instr.WellFormed, Instr.wellFormed, encode, instrBytes, fOp4, fOp2, fReg2, fBit16, fSub5, cat4_0, cat4_1, cat4_2, cat4_3]
theorem EncodeLength.not1 (bit3 : BitVec 3) (disp16 : Half) (reg1 : Reg) : EncodeLength.Statement (.not1 bit3 disp16 reg1) := by
  intro hw h; simp_all [Instr.WellFormed, Instr.wellFormed, encode, instrBytes, fOp4, fOp2, fReg2, fBit16, fSub5, cat4_0, cat4_1, cat4_2, cat4_3]
theorem EncodeLength.clr1 (bit3 : BitVec 3) (disp16 : Half) (reg1 : Reg) : EncodeLength.Statement (.clr1 bit3 disp16 reg1) := by
  intro hw h; simp_all [Instr.WellFormed, Instr.wellFormed, encode, instrBytes, fOp4, fOp2, fReg2, fBit16, fSub5, cat4_0, cat4_1, cat4_2, cat4_3]
theorem EncodeLength.tst1 (bit3 : BitVec 3) (disp16 : Half) (reg1 : Reg) : EncodeLength.Statement (.tst1 bit3 disp16 reg1) := by
  intro hw h; simp_all [Instr.WellFormed, Instr.wellFormed, encode, instrBytes, fOp4, fOp2, fReg2, fBit16, fSub5, cat4_0, cat4_1, cat4_2, cat4_3]
theorem EncodeLength.ldHu (disp15 : BitVec 15) (reg1 reg2 : Reg) : EncodeLength.Statement (.ldHu disp15 reg1 reg2) := 
  fun _ _ => length_opHalf (by decide)
theorem EncodeLength.setf (cccc : Cond) (reg2 : Reg) : EncodeLength.Statement (.setf cccc reg2) := by
  intro hw h; simp_all [Instr.WellFormed, Instr.wellFormed, encode, instrBytes, fOp4, fOp2, fReg2, fBit16, fSub5, cat3_lo, cat3_mid, cat3_hi]
theorem EncodeLength.rieImm (imm5 : BitVec 5) (imm4 : BitVec 4) : EncodeLength.Statement (.rieImm imm5 imm4) := by
  intro hw h; simp_all [Instr.WellFormed, Instr.wellFormed, encode, instrBytes, fOp4, fOp2, fReg2, fBit16, fSub5, cat3_lo, cat3_mid, cat3_hi]
theorem EncodeLength.ldsr (reg2 : Reg) (regId : RegId) : EncodeLength.Statement (.ldsr reg2 regId) := 
  fun _ _ => length_opHalf (by decide)
theorem EncodeLength.stsr (regId : RegId) (reg2 : Reg) : EncodeLength.Statement (.stsr regId reg2) := 
  fun _ _ => length_opHalf (by decide)
theorem EncodeLength.shr (reg1 reg2 : Reg) : EncodeLength.Statement (.shr reg1 reg2) := 
  fun _ _ => length_opHalf (by decide)
theorem EncodeLength.shr3 (reg1 reg2 reg3 : Reg) : EncodeLength.Statement (.shr3 reg1 reg2 reg3) := 
  fun _ _ => length_opHalf (by decide)
theorem EncodeLength.sar (reg1 reg2 : Reg) : EncodeLength.Statement (.sar reg1 reg2) := 
  fun _ _ => length_opHalf (by decide)
theorem EncodeLength.sar3 (reg1 reg2 reg3 : Reg) : EncodeLength.Statement (.sar3 reg1 reg2 reg3) := 
  fun _ _ => length_opHalf (by decide)
theorem EncodeLength.shl (reg1 reg2 : Reg) : EncodeLength.Statement (.shl reg1 reg2) := 
  fun _ _ => length_opHalf (by decide)
theorem EncodeLength.shl3 (reg1 reg2 reg3 : Reg) : EncodeLength.Statement (.shl3 reg1 reg2 reg3) := 
  fun _ _ => length_opHalf (by decide)
theorem EncodeLength.set1Reg (reg2 reg1 : Reg) : EncodeLength.Statement (.set1Reg reg2 reg1) := 
  fun _ _ => length_opHalf (by decide)
theorem EncodeLength.not1Reg (reg2 reg1 : Reg) : EncodeLength.Statement (.not1Reg reg2 reg1) := 
  fun _ _ => length_opHalf (by decide)
theorem EncodeLength.clr1Reg (reg2 reg1 : Reg) : EncodeLength.Statement (.clr1Reg reg2 reg1) := 
  fun _ _ => length_opHalf (by decide)
theorem EncodeLength.tst1Reg (reg2 reg1 : Reg) : EncodeLength.Statement (.tst1Reg reg2 reg1) := 
  fun _ _ => length_opHalf (by decide)
theorem EncodeLength.caxi (reg1 reg2 reg3 : Reg) : EncodeLength.Statement (.caxi reg1 reg2 reg3) := 
  fun _ _ => length_opHalf (by decide)
theorem EncodeLength.trap (vector5 : BitVec 5) : EncodeLength.Statement (.trap vector5) := by
  intro hw h; simp_all [Instr.WellFormed, Instr.wellFormed, encode, instrBytes, opHalf, fOp4, fOp2, fReg2, fBit16, fSub5, cat3_lo, cat3_mid, cat3_hi]
theorem EncodeLength.halt : EncodeLength.Statement .halt := 
  fun _ _ => rfl
theorem EncodeLength.reti : EncodeLength.Statement .reti := 
  fun _ _ => rfl
theorem EncodeLength.ctret : EncodeLength.Statement .ctret := 
  fun _ _ => rfl
theorem EncodeLength.eiret : EncodeLength.Statement .eiret := 
  fun _ _ => rfl
theorem EncodeLength.feret : EncodeLength.Statement .feret := 
  fun _ _ => rfl
theorem EncodeLength.di : EncodeLength.Statement .di := 
  fun _ _ => rfl
theorem EncodeLength.ei : EncodeLength.Statement .ei := 
  fun _ _ => rfl
theorem EncodeLength.syscall (vector8 : BitVec 8) : EncodeLength.Statement (.syscall vector8) := 
  fun _ _ => length_opHalf (by decide)
theorem EncodeLength.sasf (cccc : Cond) (reg2 : Reg) : EncodeLength.Statement (.sasf cccc reg2) := by
  intro hw h; simp_all [Instr.WellFormed, Instr.wellFormed, encode, instrBytes, fOp4, fOp2, fReg2, fBit16, fSub5, cat3_lo, cat3_mid, cat3_hi]
theorem EncodeLength.mul (reg1 reg2 reg3 : Reg) : EncodeLength.Statement (.mul reg1 reg2 reg3) := 
  fun _ _ => length_opHalf (by decide)
theorem EncodeLength.mulu (reg1 reg2 reg3 : Reg) : EncodeLength.Statement (.mulu reg1 reg2 reg3) := 
  fun _ _ => length_opHalf (by decide)
theorem EncodeLength.mulImm9 (imm9 : BitVec 9) (reg2 reg3 : Reg) : EncodeLength.Statement (.mulImm9 imm9 reg2 reg3) := 
  fun _ _ => length_opHalf (by decide)
theorem EncodeLength.muluImm9 (imm9 : BitVec 9) (reg2 reg3 : Reg) : EncodeLength.Statement (.muluImm9 imm9 reg2 reg3) := 
  fun _ _ => length_opHalf (by decide)
theorem EncodeLength.divh3 (reg1 reg2 reg3 : Reg) : EncodeLength.Statement (.divh3 reg1 reg2 reg3) := 
  fun _ _ => length_opHalf (by decide)
theorem EncodeLength.divhu (reg1 reg2 reg3 : Reg) : EncodeLength.Statement (.divhu reg1 reg2 reg3) := 
  fun _ _ => length_opHalf (by decide)
theorem EncodeLength.div (reg1 reg2 reg3 : Reg) : EncodeLength.Statement (.div reg1 reg2 reg3) := 
  fun _ _ => length_opHalf (by decide)
theorem EncodeLength.divu (reg1 reg2 reg3 : Reg) : EncodeLength.Statement (.divu reg1 reg2 reg3) := 
  fun _ _ => length_opHalf (by decide)
theorem EncodeLength.divq (reg1 reg2 reg3 : Reg) : EncodeLength.Statement (.divq reg1 reg2 reg3) := 
  fun _ _ => length_opHalf (by decide)
theorem EncodeLength.divqu (reg1 reg2 reg3 : Reg) : EncodeLength.Statement (.divqu reg1 reg2 reg3) := 
  fun _ _ => length_opHalf (by decide)
theorem EncodeLength.cmovImm5 (cccc : Cond) (imm5 : BitVec 5) (reg2 reg3 : Reg) : EncodeLength.Statement (.cmovImm5 cccc imm5 reg2 reg3) := 
  fun _ _ => length_opHalf (by decide)
theorem EncodeLength.cmov (cccc : Cond) (reg1 reg2 reg3 : Reg) : EncodeLength.Statement (.cmov cccc reg1 reg2 reg3) := 
  fun _ _ => length_opHalf (by decide)
theorem EncodeLength.bsw (reg2 reg3 : Reg) : EncodeLength.Statement (.bsw reg2 reg3) := 
  fun _ _ => length_opHalf (by decide)
theorem EncodeLength.bsh (reg2 reg3 : Reg) : EncodeLength.Statement (.bsh reg2 reg3) := 
  fun _ _ => length_opHalf (by decide)
theorem EncodeLength.hsw (reg2 reg3 : Reg) : EncodeLength.Statement (.hsw reg2 reg3) := 
  fun _ _ => length_opHalf (by decide)
theorem EncodeLength.hsh (reg2 reg3 : Reg) : EncodeLength.Statement (.hsh reg2 reg3) := 
  fun _ _ => length_opHalf (by decide)
theorem EncodeLength.sch0r (reg2 reg3 : Reg) : EncodeLength.Statement (.sch0r reg2 reg3) := 
  fun _ _ => length_opHalf (by decide)
theorem EncodeLength.sch1r (reg2 reg3 : Reg) : EncodeLength.Statement (.sch1r reg2 reg3) := 
  fun _ _ => length_opHalf (by decide)
theorem EncodeLength.sch0l (reg2 reg3 : Reg) : EncodeLength.Statement (.sch0l reg2 reg3) := 
  fun _ _ => length_opHalf (by decide)
theorem EncodeLength.sch1l (reg2 reg3 : Reg) : EncodeLength.Statement (.sch1l reg2 reg3) := 
  fun _ _ => length_opHalf (by decide)
theorem EncodeLength.sbf (cccc : Cond) (reg1 reg2 reg3 : Reg) : EncodeLength.Statement (.sbf cccc reg1 reg2 reg3) := 
  fun _ _ => length_opHalf (by decide)
theorem EncodeLength.satsub3 (reg1 reg2 reg3 : Reg) : EncodeLength.Statement (.satsub3 reg1 reg2 reg3) := 
  fun _ _ => length_opHalf (by decide)
theorem EncodeLength.adf (cccc : Cond) (reg1 reg2 reg3 : Reg) : EncodeLength.Statement (.adf cccc reg1 reg2 reg3) := 
  fun _ _ => length_opHalf (by decide)
theorem EncodeLength.satadd3 (reg1 reg2 reg3 : Reg) : EncodeLength.Statement (.satadd3 reg1 reg2 reg3) := 
  fun _ _ => length_opHalf (by decide)
theorem EncodeLength.mac (reg1 reg2 : Reg) (reg3 reg4 : RegPair) : EncodeLength.Statement (.mac reg1 reg2 reg3 reg4) := 
  fun _ _ => length_opHalf (by decide)
theorem EncodeLength.macu (reg1 reg2 : Reg) (reg3 reg4 : RegPair) : EncodeLength.Statement (.macu reg1 reg2 reg3 reg4) := 
  fun _ _ => length_opHalf (by decide)

end Sys2Proof.Laws
end

