-- ==== Sys2Proof/Tests/Slice0.lean ====
section
/-! SUPPORT. Tests. Part 1: the check of well-formedness refuses what R186 and R190 exclude. Part 2: the words of the table, written out
in 95_test_vectors.md from the patterns of R199, decode to their instructions, one for each constructor. Part 3: one step of each
instruction, with the start and end states of 95_test_vectors.md. Part 4: for every statement with hypotheses a state and
operands that meet them. -/

namespace Sys2Proof.Tests

open Sys2Proof.Machine Sys2Proof.Safety

/-! ## Helpers -/

/-- The state after reset with PSW = 0 and the instruction of the bits w at the address a, which the PC holds. -/
def codeAt (a : Word) (nbits w : Nat) : State := ({ State.reset with pc := a, psw := 0 } : State).withFetchWord nbits w

/-- The same at 1000H, where 95_test_vectors.md starts. -/
def code (nbits w : Nat) : State := codeAt 0x1000 nbits w

/-- s with the PSW v. -/
def setPsw (v : Word) (s : State) : State := { s with psw := v }

/-- s with its system registers changed. -/
def setSys (f : SysRegs → SysRegs) (s : State) : State := { s with sys := f s.sys }

/-- What f sees in the state after one step. -/
def after {α : Type} (s : State) (f : State → α) : Option α :=
  match step s with
  | .next t => some (f t)
  | .fault _ => none
  | .refused _ => none

/-- A state of the right form, running at 1000H with PSW = 0 and memory blank. -/
def start : State := { State.reset with pc := 0x1000, psw := 0 }

/-- start with one sample of platform inputs. -/
def asked (p : Sample) (s : State) : State := { s with inputs := [p] }

/-- s in a product whose platform answers at 1008H to 100BH, with these answers to come. -/
def device (l : List Answer) (s : State) : State :=
  { s with product := { s.product with io := [⟨0x1008, 0x100B⟩] }, answers := l }

/-! ## Well-formedness (R186, R190) -/

/-- Every check of Instr.wellFormed refuses an instruction with an excluded register, vector or condition. -/
theorem test_wellFormed_refuses :
    ([.mov 1 0, .switch 0, .fetrap 0, .divh 0 1, .divh 1 0, .sldBu 0 0, .sldHu 0 0, .satsubr 1 0, .satsub 1 0, .satadd 1 0,
      .mulh 1 0, .movImm5 1 0, .sataddImm5 1 0, .mulhImm5 1 0, .jarlDisp32 0 0, .movea 0 1 0, .movhi 0 1 0, .satsubi 0 1 0,
      .disposeJmp 0 0 0, .mulhi 0 1 0, .jarlDisp22 0 0, .ldBu 0 1 0, .ldHu 0 1 0, .sbf .sa 1 1 1, .adf .sa 1 1 1] :
      List Instr).all (fun i => !i.wellFormed) = true := by decide

/-- The same instructions with the smallest admitted value are accepted. -/
theorem test_wellFormed_accepts :
    ([.mov 0 1, .switch 1, .fetrap 1, .divh 1 1, .sldBu 0 1, .sldHu 0 1, .satsubr 0 1, .satsub 0 1, .satadd 0 1,
      .mulh 0 1, .movImm5 0 1, .sataddImm5 0 1, .mulhImm5 0 1, .jarlDisp32 0 1, .movea 0 0 1, .movhi 0 0 1, .satsubi 0 0 1,
      .disposeJmp 0 0 1, .mulhi 0 0 1, .jarlDisp22 0 1, .ldBu 0 0 1, .ldHu 0 0 1, .sbf .t 0 0 0, .adf .gt 0 0 0] :
      List Instr).all (fun i => i.wellFormed) = true := by decide

/-- What an excluded value encodes is another instruction or a reserved code: register 0 in MOV is NOP, vector 0 in FETRAP is RIE,
register 0 in SWITCH and condition SA in SBF are no such instruction. -/
theorem test_wellFormed_codes :
    decodeTableWord 16 0x0000 = some .nop ∧ decodeTableWord 16 0x0040 = some .rie ∧
    decodeTableWord 32 0x1B9A17E1 = some (.satsub3 1 2 3) ∧ decodeTableWord 32 0x1BBA17E1 = some (.satadd3 1 2 3) := by decide

/-! ## Decoding (R199; words of 95_test_vectors.md) -/

theorem test_decode_load_1 :
    decodeTableWord 16 0x406F = some (.sldBu 0xF 8) ∧
    decodeTableWord 16 0x487F = some (.sldHu 0xF 9) ∧
    decodeTableWord 16 0x437F = some (.sldB 0x7F 8) ∧
    decodeTableWord 16 0x4C7F = some (.sldH 0x7F 9) ∧
    decodeTableWord 16 0x557E = some (.sldW 0x3F 10) ∧
    decodeTableWord 32 0xFFFF3705 = some (.ldB 0xFFFF 5 6) ∧
    decodeTableWord 32 0x85723 = some (.ldH 0x4 3 10) ∧
    decodeTableWord 32 0x5FF23 = some (.ldW 0x2 3 31) ∧
    decodeTableWord 48 0x24634550785 = some (.ldBDisp23 0x12345 5 6) ∧
    decodeTableWord 48 0x800050270781 = some (.ldHDisp23 0x200001 1 10) ∧
    decodeTableWord 48 0x7FFF67C90780 = some (.ldWDisp23 0x1FFFFE 0 12) ∧
    decodeTableWord 48 0xFFFF3FF507A4 = some (.ldBuDisp23 0x7FFFFF 4 7) ∧
    decodeTableWord 48 0x2580707A2 = some (.ldHuDisp23 0x80 2 11) := by decide

theorem test_decode_load_2 :
    decodeTableWord 32 0x80013FA4 = some (.ldBu 0x8001 4 7) ∧
    decodeTableWord 32 0xFFFF57FE = some (.ldHu 0x7FFF 30 10) := by decide

theorem test_decode_store :
    decodeTableWord 16 0xB80 = some (.sstB 1 0x0) ∧
    decodeTableWord 16 0xC81 = some (.sstH 1 0x1) ∧
    decodeTableWord 16 0xD03 = some (.sstW 1 0x1) ∧
    decodeTableWord 32 0x103745 = some (.stB 6 0x10 5) ∧
    decodeTableWord 32 0x1023765 = some (.stH 6 0x81 5) ∧
    decodeTableWord 32 0xFFFD3763 = some (.stW 6 0x7FFE 3) ∧
    decodeTableWord 48 0xFFFF37FD0785 = some (.stBDisp23 6 0x7FFFFF 5) ∧
    decodeTableWord 48 0x400304F0785 = some (.stWDisp23 6 0x10002 5) ∧
    decodeTableWord 48 0x200300D07A5 = some (.stHDisp23 6 0x8000 5) := by decide

theorem test_decode_multiply :
    decodeTableWord 16 0x10E1 = some (.mulh 1 2) ∧
    decodeTableWord 16 0x12FE = some (.mulhImm5 0x1E 2) ∧
    decodeTableWord 32 0x800016E1 = some (.mulhi 0x8000 1 2) ∧
    decodeTableWord 32 0x1A2017E1 = some (.mul 1 2 3) ∧
    decodeTableWord 32 0x1A2217E1 = some (.mulu 1 2 3) ∧
    decodeTableWord 32 0x1A7C17FF = some (.mulImm9 0x1FF 2 3) ∧
    decodeTableWord 32 0x1A7E17FF = some (.muluImm9 0x1FF 2 3) ∧
    decodeTableWord 32 0x23C617E1 = some (.mac 1 2 2 3) ∧
    decodeTableWord 32 0x23E617E1 = some (.macu 1 2 2 3) := by decide

theorem test_decode_arithmetic_1 :
    decodeTableWord 16 0x1001 = some (.mov 1 2) ∧
    decodeTableWord 16 0x1181 = some (.subr 1 2) ∧
    decodeTableWord 16 0x11A1 = some (.sub 1 2) ∧
    decodeTableWord 16 0x11C1 = some (.add 1 2) ∧
    decodeTableWord 16 0x11E1 = some (.cmp 1 2) ∧
    decodeTableWord 16 0x121F = some (.movImm5 0x1F 2) ∧
    decodeTableWord 16 0x125F = some (.addImm5 0x1F 2) ∧
    decodeTableWord 16 0x1270 = some (.cmpImm5 0x10 2) ∧
    decodeTableWord 32 0x80001601 = some (.addi 0x8000 1 2) ∧
    decodeTableWord 48 0x123456780621 = some (.movImm32 0x12345678 1) ∧
    decodeTableWord 32 0xFFFC1620 = some (.movea 0xFFFC 0 2) ∧
    decodeTableWord 32 0x12341641 = some (.movhi 0x1234 1 2) ∧
    decodeTableWord 32 0x1B8217E1 = some (.sbf .c 1 2 3) := by decide

theorem test_decode_arithmetic_2 :
    decodeTableWord 32 0x1BA217E1 = some (.adf .c 1 2 3) := by decide

theorem test_decode_saturated :
    decodeTableWord 16 0x1081 = some (.satsubr 1 2) ∧
    decodeTableWord 16 0x10A1 = some (.satsub 1 2) ∧
    decodeTableWord 16 0x10C1 = some (.satadd 1 2) ∧
    decodeTableWord 16 0x1230 = some (.sataddImm5 0x10 2) ∧
    decodeTableWord 32 0x80001661 = some (.satsubi 0x8000 1 2) ∧
    decodeTableWord 32 0x1B9A17E1 = some (.satsub3 1 2 3) ∧
    decodeTableWord 32 0x1BBA17E1 = some (.satadd3 1 2 3) := by decide

theorem test_decode_logic :
    decodeTableWord 16 0x1021 = some (.not 1 2) ∧
    decodeTableWord 16 0x1101 = some (.or 1 2) ∧
    decodeTableWord 16 0x1121 = some (.xor 1 2) ∧
    decodeTableWord 16 0x1141 = some (.and 1 2) ∧
    decodeTableWord 16 0x1161 = some (.tst 1 2) ∧
    decodeTableWord 32 0xFF001681 = some (.ori 0xFF00 1 2) ∧
    decodeTableWord 32 0xFF0016A1 = some (.xori 0xFF00 1 2) ∧
    decodeTableWord 32 0xFF0016C1 = some (.andi 0xFF00 1 2) := by decide

theorem test_decode_data_1 :
    decodeTableWord 16 0x81 = some (.zxb 1) ∧
    decodeTableWord 16 0xA1 = some (.sxb 1) ∧
    decodeTableWord 16 0xC1 = some (.zxh 1) ∧
    decodeTableWord 16 0xE1 = some (.sxh 1) ∧
    decodeTableWord 16 0x1284 = some (.shrImm5 0x4 2) ∧
    decodeTableWord 16 0x12A4 = some (.sarImm5 0x4 2) ∧
    decodeTableWord 16 0x12C4 = some (.shlImm5 0x4 2) ∧
    decodeTableWord 32 0x17E1 = some (.setf .c 2) ∧
    decodeTableWord 32 0x8017E1 = some (.shr 1 2) ∧
    decodeTableWord 32 0x188217E1 = some (.shr3 1 2 3) ∧
    decodeTableWord 32 0xA017E1 = some (.sar 1 2) ∧
    decodeTableWord 32 0x18A217E1 = some (.sar3 1 2 3) ∧
    decodeTableWord 32 0xC017E1 = some (.shl 1 2) := by decide

theorem test_decode_data_2 :
    decodeTableWord 32 0x18C217E1 = some (.shl3 1 2 3) ∧
    decodeTableWord 32 0x20017E2 = some (.sasf .z 2) ∧
    decodeTableWord 32 0x1B0C17FF = some (.cmovImm5 .lt 0x1F 2 3) ∧
    decodeTableWord 32 0x1B2417E1 = some (.cmov .z 1 2 3) ∧
    decodeTableWord 32 0x1B4017E0 = some (.bsw 2 3) ∧
    decodeTableWord 32 0x1B4217E0 = some (.bsh 2 3) ∧
    decodeTableWord 32 0x1B4417E0 = some (.hsw 2 3) ∧
    decodeTableWord 32 0x1B4617E0 = some (.hsh 2 3) ∧
    decodeTableWord 32 0x1B6017E0 = some (.sch0r 2 3) ∧
    decodeTableWord 32 0x1B6217E0 = some (.sch1r 2 3) ∧
    decodeTableWord 32 0x1B6417E0 = some (.sch0l 2 3) ∧
    decodeTableWord 32 0x1B6617E0 = some (.sch1l 2 3) := by decide

theorem test_decode_divide :
    decodeTableWord 16 0x1041 = some (.divh 1 2) ∧
    decodeTableWord 32 0x1A8017E1 = some (.divh3 1 2 3) ∧
    decodeTableWord 32 0x1A8217E1 = some (.divhu 1 2 3) ∧
    decodeTableWord 32 0x1AC017E1 = some (.div 1 2 3) ∧
    decodeTableWord 32 0x1AC217E1 = some (.divu 1 2 3) ∧
    decodeTableWord 32 0x1AFC17E1 = some (.divq 1 2 3) ∧
    decodeTableWord 32 0x1AFE17E1 = some (.divqu 1 2 3) := by decide

theorem test_decode_branch :
    decodeTableWord 16 0x7F = some (.jmp 31) ∧
    decodeTableWord 48 0x10000002E0 = some (.jrDisp32 0x80000) ∧
    decodeTableWord 48 0x10000002FF = some (.jarlDisp32 0x80000 31) ∧
    decodeTableWord 16 0xFDEA = some (.bcond .nz 0xFE) ∧
    decodeTableWord 48 0x200006E1 = some (.jmpDisp32 0x1000 1) ∧
    decodeTableWord 32 0xFFFC07BF = some (.jrDisp22 0x1FFFFE) ∧
    decodeTableWord 32 0x100FF80 = some (.jarlDisp22 0x80 31) := by decide

theorem test_decode_bit :
    decodeTableWord 32 0xFFFF3FC1 = some (.set1 7 0xFFFF 1) ∧
    decodeTableWord 32 0x105FC1 = some (.not1 3 0x10 1) ∧
    decodeTableWord 32 0x109FC1 = some (.clr1 3 0x10 1) ∧
    decodeTableWord 32 0x10DFC1 = some (.tst1 3 0x10 1) ∧
    decodeTableWord 32 0xE017E1 = some (.set1Reg 2 1) ∧
    decodeTableWord 32 0xE217E1 = some (.not1Reg 2 1) ∧
    decodeTableWord 32 0xE417E1 = some (.clr1Reg 2 1) ∧
    decodeTableWord 32 0xE617E1 = some (.tst1Reg 2 1) := by decide

theorem test_decode_special_1 :
    decodeTableWord 16 0x0 = some (.nop) ∧
    decodeTableWord 16 0x1D = some (.synce) ∧
    decodeTableWord 16 0x1E = some (.syncm) ∧
    decodeTableWord 16 0x1F = some (.syncp) ∧
    decodeTableWord 16 0x40 = some (.rie) ∧
    decodeTableWord 16 0x41 = some (.switch 1) ∧
    decodeTableWord 16 0x840 = some (.fetrap 1) ∧
    decodeTableWord 16 0x205 = some (.callt 5) ∧
    decodeTableWord 32 0x600648 = some (.dispose 4 0x6) ∧
    decodeTableWord 32 0x7F0648 = some (.disposeJmp 4 0x6 31) ∧
    decodeTableWord 32 0x610788 = some (.prepare 0x6 4) ∧
    decodeTableWord 32 0x630788 = some (.prepareSp 0x6 4) ∧
    decodeTableWord 48 0x8000006B0788 = some (.prepareImm16 0x6 4 0x8000) := by decide

theorem test_decode_special_2 :
    decodeTableWord 48 0x800000730788 = some (.prepareImm16Hi 0x6 4 0x8000) ∧
    decodeTableWord 64 0x12345678007B0788 = some (.prepareImm32 0x6 4 0x12345678) ∧
    decodeTableWord 32 0x7F0 = some (.rieImm 0 0) ∧
    decodeTableWord 32 0x202FE1 = some (.ldsr 1 5) ∧
    decodeTableWord 32 0x4017E5 = some (.stsr 5 2) ∧
    decodeTableWord 32 0x18EE17E1 = some (.caxi 1 2 3) ∧
    decodeTableWord 32 0x10007FF = some (.trap 31) ∧
    decodeTableWord 32 0x12007E0 = some (.halt) ∧
    decodeTableWord 32 0x14007E0 = some (.reti) ∧
    decodeTableWord 32 0x14407E0 = some (.ctret) ∧
    decodeTableWord 32 0x14807E0 = some (.eiret) ∧
    decodeTableWord 32 0x14A07E0 = some (.feret) ∧
    decodeTableWord 32 0x16007E0 = some (.di) := by decide

theorem test_decode_special_3 :
    decodeTableWord 32 0x16087E0 = some (.ei) ∧
    decodeTableWord 32 0x160D7E2 = some (.syscall 2) := by decide

/-! ## One step of each instruction (95_test_vectors.md) -/

/-- R220: LD.B -1[r5], r6. -/
theorem test_step_ldB :
    after (((code 32 0xFFFF3705).writeReg 5 0x1000).write8 0xFFF 0x80) (fun t => (t.readReg 6, t.pc)) = some (0xFFFFFF80, 0x1004) := by decide

/-- R221: LD.B 0x12345[r5], r6. -/
theorem test_step_ldBDisp23 :
    after (((code 48 0x24634550785).writeReg 5 0x100000).write8 0x112345 0x7F) (fun t => (t.readReg 6, t.pc)) = some (0x7F, 0x1006) := by decide

/-- R222: LD.BU -0x7FFF[r4], r7. -/
theorem test_step_ldBu :
    after (((code 32 0x80013FA4).writeReg 4 0x10000).write8 0x8001 0x80) (fun t => t.readReg 7) = some 0x80 := by decide

/-- R223: LD.BU -1[r4], r7. -/
theorem test_step_ldBuDisp23 :
    after (((code 48 0xFFFF3FF507A4).writeReg 4 0x1000).write8 0xFFF 0xFF) (fun t => t.readReg 7) = some 0xFF := by decide

/-- R224: LD.H 8[r3], r10, LD.H 0[r1], r10. -/
theorem test_step_ldH :
    after ((((code 32 0x85723).writeReg 3 0x2000).write8 0x2008 0x34).write8 0x2009 0xF2) (fun t => t.readReg 10) = some 0xFFFFF234 ∧
    after ((((code 32 0x5721).writeReg 1 0x2001).write8 0x2001 0xCD).write8 0x2002 0xAB) (fun t => t.readReg 10) = some 0xFFFFABCD := by decide

/-- R225: LD.H -0x3FFFFE[r1], r10. -/
theorem test_step_ldHDisp23 :
    after (((code 48 0x800050270781).writeReg 1 0x500000).write16 0x100002 0x1234) (fun t => t.readReg 10) = some 0x1234 := by decide

/-- R226: LD.HU -2[r30], r10. -/
theorem test_step_ldHu :
    after (((code 32 0xFFFF57FE).writeReg 30 0x3000).write16 0x2FFE 0x8001) (fun t => t.readReg 10) = some 0x8001 := by decide

/-- R227: LD.HU 0x100[r2], r11. -/
theorem test_step_ldHuDisp23 :
    after (((code 48 0x2580707A2).writeReg 2 0x1000).write16 0x1100 0xFFFF) (fun t => t.readReg 11) = some 0xFFFF := by decide

/-- R228: LD.W 4[r3], r31, LD.W 0[r1], r0. -/
theorem test_step_ldW :
    after (((code 32 0x5FF23).writeReg 3 0x2000).write32 0x2004 0x12345678) (fun t => t.readReg 31) = some 0x12345678 ∧
    after (((code 32 0x10721).writeReg 1 0x2000).write32 0x2000 0xDEADBEEF) (fun t => (t.readReg 0, t.pc)) = some (0, 0x1004) := by decide

/-- R229: LD.W 0x3FFFFC[r0], r12. -/
theorem test_step_ldWDisp23 :
    after ((code 48 0x7FFF67C90780).write32 0x3FFFFC 0xA5A5A5A5) (fun t => t.readReg 12) = some 0xA5A5A5A5 := by decide

/-- R230: SLD.B 0x7F[ep], r8. -/
theorem test_step_sldB :
    after (((code 16 0x437F).writeReg 30 0x4000).write8 0x407F 0x90) (fun t => (t.readReg 8, t.pc)) = some (0xFFFFFF90, 0x1002) := by decide

/-- R231: SLD.BU 15[ep], r8. -/
theorem test_step_sldBu :
    after (((code 16 0x406F).writeReg 30 0x4000).write8 0x400F 0x90) (fun t => t.readReg 8) = some 0x90 := by decide

/-- R232: SLD.H 0xFE[ep], r9. -/
theorem test_step_sldH :
    after (((code 16 0x4C7F).writeReg 30 0x4000).write16 0x40FE 0x8000) (fun t => t.readReg 9) = some 0xFFFF8000 := by decide

/-- R233: SLD.HU 30[ep], r9. -/
theorem test_step_sldHu :
    after (((code 16 0x487F).writeReg 30 0x4000).write16 0x401E 0x8000) (fun t => t.readReg 9) = some 0x8000 := by decide

/-- R234: SLD.W 0xFC[ep], r10. -/
theorem test_step_sldW :
    after (((code 16 0x557E).writeReg 30 0x4000).write32 0x40FC 0xCAFEF00D) (fun t => t.readReg 10) = some 0xCAFEF00D := by decide

/-- R237: ST.B r6, 0x10[r5]. -/
theorem test_step_stB :
    after ((((code 32 0x103745).writeReg 5 0x1000).writeReg 6 0x12345678).write32 0x1010 0xFFFFFFFF) (fun t => wordAt t 0x1010) = some 0xFFFFFF78 := by decide

/-- R238: ST.B r6, -1[r5]. -/
theorem test_step_stBDisp23 :
    after (((code 48 0xFFFF37FD0785).writeReg 5 0x1000).writeReg 6 0xAB) (fun t => t.read8 0xFFF) = some 0xAB := by decide

/-- R239: ST.H r6, 0x102[r5]. -/
theorem test_step_stH :
    after (((code 32 0x1023765).writeReg 5 0x1000).writeReg 6 0x12345678) (fun t => (t.read8 0x1102, t.read8 0x1103)) = some (0x78, 0x56) := by decide

/-- R240: ST.H r6, 0x10000[r5]. -/
theorem test_step_stHDisp23 :
    after (((code 48 0x200300D07A5).writeReg 5 0x100000).writeReg 6 0xBEEF) (fun t => (t.read8 0x110000, t.read8 0x110001)) = some (0xEF, 0xBE) := by decide

/-- R241: ST.W r6, -4[r3], ST.W r6, 0[r1]. -/
theorem test_step_stW :
    after (((code 32 0xFFFD3763).writeReg 3 0x2000).writeReg 6 0x12345678) (fun t => (t.read8 0x1FFC, t.read8 0x1FFD, t.read8 0x1FFE, t.read8 0x1FFF)) = some (0x78, 0x56, 0x34, 0x12) ∧
    after (((code 32 0x13761).writeReg 1 0xFFFFFFFE).writeReg 6 0x11223344) (fun t => (t.read8 0xFFFFFFFE, t.read8 0xFFFFFFFF, t.read8 0, t.read8 1)) = some (0x44, 0x33, 0x22, 0x11) := by decide

/-- R242: ST.W r6, 0x20004[r5]. -/
theorem test_step_stWDisp23 :
    after (((code 48 0x400304F0785).writeReg 5 0x100000).writeReg 6 0x89ABCDEF) (fun t => wordAt t 0x120004) = some 0x89ABCDEF := by decide

/-- R243: SST.B r1, 0[ep]. -/
theorem test_step_sstB :
    after (((code 16 0xB80).writeReg 30 0x4000).writeReg 1 0xA5) (fun t => t.read8 0x4000) = some 0xA5 := by decide

/-- R244: SST.H r1, 2[ep]. -/
theorem test_step_sstH :
    after (((code 16 0xC81).writeReg 30 0x4000).writeReg 1 0xA55A) (fun t => (t.read8 0x4002, t.read8 0x4003)) = some (0x5A, 0xA5) := by decide

/-- R245: SST.W r1, 4[ep]. -/
theorem test_step_sstW :
    after (((code 16 0xD03).writeReg 30 0x4000).writeReg 1 0x11223344) (fun t => wordAt t 0x4004) = some 0x11223344 := by decide

/-- R260: MUL r1, r2, r3, MUL r1, r2, r3. -/
theorem test_step_mul :
    after (((code 32 0x1A2017E1).writeReg 1 0xFFFFFFFE).writeReg 2 3) (fun t => (t.readReg 2, t.readReg 3, t.psw)) = some (0xFFFFFFFA, 0xFFFFFFFF, 0) ∧
    after (((code 32 0x1A2017E1).writeReg 1 0x80000000).writeReg 2 0x80000000) (fun t => (t.readReg 2, t.readReg 3)) = some (0, 0x40000000) := by decide

/-- R261: MUL -1, r2, r3, MUL 100, r2, r3. -/
theorem test_step_mulImm9 :
    after ((code 32 0x1A7C17FF).writeReg 2 5) (fun t => (t.readReg 2, t.readReg 3)) = some (0xFFFFFFFB, 0xFFFFFFFF) ∧
    after ((code 32 0x1A4C17E4).writeReg 2 5) (fun t => (t.readReg 2, t.readReg 3)) = some (0x1F4, 0) := by decide

/-- R263: MULH r1, r2, MULH r1, r2. -/
theorem test_step_mulh :
    after (((code 16 0x10E1).writeReg 1 0x1234FFFF).writeReg 2 0xABCD0003) (fun t => t.readReg 2) = some 0xFFFFFFFD ∧
    after (((code 16 0x10E1).writeReg 1 0x8000).writeReg 2 0x8000) (fun t => t.readReg 2) = some 0x40000000 := by decide

/-- R264: MULH -2, r2. -/
theorem test_step_mulhImm5 :
    after ((code 16 0x12FE).writeReg 2 0x10004) (fun t => t.readReg 2) = some 0xFFFFFFF8 := by decide

/-- R265: MULHI 0x8000, r1, r2. -/
theorem test_step_mulhi :
    after ((code 32 0x800016E1).writeReg 1 2) (fun t => t.readReg 2) = some 0xFFFF0000 := by decide

/-- R266: MULU r1, r2, r3, MULU r1, r2, r3. -/
theorem test_step_mulu :
    after (((code 32 0x1A2217E1).writeReg 1 0xFFFFFFFE).writeReg 2 3) (fun t => (t.readReg 2, t.readReg 3)) = some (0xFFFFFFFA, 2) ∧
    after (((code 32 0x1A2217E1).writeReg 1 0xFFFFFFFF).writeReg 2 0xFFFFFFFF) (fun t => (t.readReg 2, t.readReg 3)) = some (1, 0xFFFFFFFE) := by decide

/-- R267: MULU 0x1FF, r2, r3. -/
theorem test_step_muluImm9 :
    after ((code 32 0x1A7E17FF).writeReg 2 0x80000000) (fun t => (t.readReg 2, t.readReg 3)) = some (0x80000000, 0xFF) := by decide

/-- R270: MAC r1, r2, r4, r6, MAC r1, r2, r4, r6. -/
theorem test_step_mac :
    after (((((code 32 0x23C617E1).writeReg 1 3).writeReg 2 4).writeReg 4 0xFFFFFFFF).writeReg 5 0) (fun t => (t.readReg 6, t.readReg 7)) = some (0xB, 1) ∧
    after (((((code 32 0x23C617E1).writeReg 1 1).writeReg 2 1).writeReg 4 0xFFFFFFFF).writeReg 5 0xFFFFFFFF) (fun t => (t.readReg 6, t.readReg 7)) = some (0, 0) := by decide

/-- R271: MACU r1, r2, r4, r6. -/
theorem test_step_macu :
    after (((((code 32 0x23E617E1).writeReg 1 0xFFFFFFFF).writeReg 2 2).writeReg 4 2).writeReg 5 0) (fun t => (t.readReg 6, t.readReg 7)) = some (0, 2) := by decide

/-- R280: ADD r1, r2, ADD r1, r0. -/
theorem test_step_add :
    after (((code 16 0x11C1).writeReg 1 1).writeReg 2 0x7FFFFFFF) (fun t => (t.readReg 2, t.flagCY, t.flagOV, t.flagS, t.flagZ)) = some (0x80000000, false, true, true, false) ∧
    after ((code 16 0x1C1).writeReg 1 0xFFFFFFFF) (fun t => (t.readReg 0, t.flagCY, t.flagOV, t.flagS, t.flagZ)) = some (0, false, false, true, false) := by decide

/-- R281: ADD -1, r2. -/
theorem test_step_addImm5 :
    after ((code 16 0x125F).writeReg 2 1) (fun t => (t.readReg 2, t.flagCY, t.flagOV, t.flagS, t.flagZ)) = some (0, true, false, false, true) := by decide

/-- R282: ADDI -32768, r1, r2. -/
theorem test_step_addi :
    after ((code 32 0x80001601).writeReg 1 0x8000) (fun t => (t.readReg 2, t.flagCY, t.flagOV, t.flagS, t.flagZ)) = some (0, true, false, false, true) := by decide

/-- R283: CMP r1, r2, CMP r1, r2. -/
theorem test_step_cmp :
    after (((code 16 0x11E1).writeReg 1 5).writeReg 2 3) (fun t => (t.readReg 2, t.flagCY, t.flagOV, t.flagS, t.flagZ)) = some (3, true, false, true, false) ∧
    after (((code 16 0x11E1).writeReg 1 1).writeReg 2 0x80000000) (fun t => (t.flagCY, t.flagOV, t.flagS, t.flagZ)) = some (false, true, false, false) := by decide

/-- R283: CMP -16, r2. -/
theorem test_step_cmpImm5 :
    after ((code 16 0x1270).writeReg 2 0x80000000) (fun t => (t.flagCY, t.flagOV, t.flagS, t.flagZ)) = some (true, false, true, false) := by decide

/-- R284: MOV r1, r2. -/
theorem test_step_mov :
    after ((code 16 0x1001).writeReg 1 0xDEADBEEF) (fun t => (t.readReg 2, t.psw)) = some (0xDEADBEEF, 0) := by decide

/-- R285: MOV -1, r2. -/
theorem test_step_movImm5 :
    after (code 16 0x121F) (fun t => t.readReg 2) = some 0xFFFFFFFF := by decide

/-- R286: MOV 0x12345678, r1. -/
theorem test_step_movImm32 :
    after (code 48 0x123456780621) (fun t => (t.readReg 1, t.pc, t.read8 0x1000, t.read8 0x1001, t.read8 0x1002)) = some (0x12345678, 0x1006, 0x21, 6, 0x78) := by decide

/-- R287: MOVEA -4, r0, r2, MOVEA 0x7FFF, r1, r2. -/
theorem test_step_movea :
    after (code 32 0xFFFC1620) (fun t => (t.readReg 2, t.psw)) = some (0xFFFFFFFC, 0) ∧
    after ((code 32 0x7FFF1621).writeReg 1 0x7FFFFFFF) (fun t => (t.readReg 2, t.psw)) = some (0x80007FFE, 0) := by decide

/-- R288: MOVHI 0x1234, r1, r2, MOVHI 0xFFFF, r1, r2. -/
theorem test_step_movhi :
    after ((code 32 0x12341641).writeReg 1 0x5678) (fun t => t.readReg 2) = some 0x12345678 ∧
    after ((code 32 0xFFFF1641).writeReg 1 0x10000) (fun t => (t.readReg 2, t.psw)) = some (0, 0) := by decide

/-- R289: SUB r1, r2, SUB r1, r2. -/
theorem test_step_sub :
    after (((code 16 0x11A1).writeReg 1 1).writeReg 2 0x80000000) (fun t => (t.readReg 2, t.flagCY, t.flagOV, t.flagS, t.flagZ)) = some (0x7FFFFFFF, false, true, false, false) ∧
    after (((code 16 0x11A1).writeReg 1 1).writeReg 2 0) (fun t => (t.readReg 2, t.flagCY, t.flagOV, t.flagS, t.flagZ)) = some (0xFFFFFFFF, true, false, true, false) := by decide

/-- R290: SUBR r1, r2. -/
theorem test_step_subr :
    after (((code 16 0x1181).writeReg 1 3).writeReg 2 5) (fun t => (t.readReg 2, t.flagCY, t.flagOV, t.flagS, t.flagZ)) = some (0xFFFFFFFE, true, false, true, false) := by decide

/-- R291: ADF C, r1, r2, r3, ADF C, r1, r2, r3. -/
theorem test_step_adf :
    after ((((code 32 0x1BA217E1).setPswBit 3 true).writeReg 1 1).writeReg 2 2) (fun t => (t.readReg 3, t.flagCY, t.flagOV, t.flagS, t.flagZ)) = some (4, false, false, false, false) ∧
    after ((((code 32 0x1BA217E1).setPswBit 3 false).writeReg 1 1).writeReg 2 2) (fun t => (t.readReg 3, t.flagCY, t.flagOV, t.flagS, t.flagZ)) = some (3, false, false, false, false) := by decide

/-- R292: SBF C, r1, r2, r3, SBF C, r1, r2, r3. -/
theorem test_step_sbf :
    after ((((code 32 0x1B8217E1).setPswBit 3 true).writeReg 1 1).writeReg 2 1) (fun t => (t.readReg 3, t.flagCY, t.flagOV, t.flagS, t.flagZ)) = some (0xFFFFFFFF, true, false, true, false) ∧
    after ((((code 32 0x1B8217E1).setPswBit 3 true).writeReg 1 0xFFFFFFFF).writeReg 2 0) (fun t => (t.readReg 3, t.flagCY, t.flagOV, t.flagS, t.flagZ)) = some (0, true, false, false, true) := by decide

/-- R311: SATADD r1, r2. -/
theorem test_step_satadd :
    after (((code 16 0x10C1).writeReg 1 1).writeReg 2 0x7FFFFFFF) (fun t => (t.readReg 2, t.flagCY, t.flagOV, t.flagS, t.flagZ)) = some (0x7FFFFFFF, false, true, false, false) := by decide

/-- R312: SATADD -16, r2, SATADD 15, r2. -/
theorem test_step_sataddImm5 :
    after ((code 16 0x1230).writeReg 2 0x80000005) (fun t => (t.readReg 2, t.flagCY, t.flagOV, t.flagS, t.flagZ)) = some (0x80000000, true, true, true, false) ∧
    after (((code 16 0x122F).writeReg 2 1).setPswBit 4 true) (fun t => (t.readReg 2, t.flagCY, t.flagOV, t.flagS, t.flagZ)) = some (0x10, false, false, false, false) := by decide

/-- R313: SATADD r1, r2, r3. -/
theorem test_step_satadd3 :
    after (((code 32 0x1BBA17E1).writeReg 1 0x40000000).writeReg 2 0x40000000) (fun t => (t.readReg 3, t.readReg 2, t.flagCY, t.flagOV, t.flagS)) = some (0x7FFFFFFF, 0x40000000, false, true, false) := by decide

/-- R314: SATSUB r1, r2. -/
theorem test_step_satsub :
    after (((code 16 0x10A1).writeReg 1 1).writeReg 2 0x80000000) (fun t => (t.readReg 2, t.flagCY, t.flagOV, t.flagS, t.flagZ)) = some (0x80000000, false, true, true, false) := by decide

/-- R315: SATSUB r1, r2, r3. -/
theorem test_step_satsub3 :
    after (((code 32 0x1B9A17E1).writeReg 1 0x80000000).writeReg 2 0) (fun t => (t.readReg 3, t.flagCY, t.flagOV, t.flagS, t.flagZ)) = some (0x7FFFFFFF, true, true, false, false) := by decide

/-- R316: SATSUBI -32768, r1, r2, SATSUBI 1, r1, r2. -/
theorem test_step_satsubi :
    after ((code 32 0x80001661).writeReg 1 0x7FFFFFFF) (fun t => (t.readReg 2, t.flagCY, t.flagOV, t.flagS, t.flagZ)) = some (0x7FFFFFFF, true, true, false, false) ∧
    after ((code 32 0x11661).writeReg 1 1) (fun t => (t.readReg 2, t.flagCY, t.flagOV, t.flagS, t.flagZ)) = some (0, false, false, false, true) := by decide

/-- R317: SATSUBR r1, r2, SATSUBR r1, r2. -/
theorem test_step_satsubr :
    after (((code 16 0x1081).writeReg 1 3).writeReg 2 5) (fun t => (t.readReg 2, t.flagCY, t.flagOV, t.flagS, t.flagZ)) = some (0xFFFFFFFE, true, false, true, false) ∧
    after (((code 16 0x1081).writeReg 1 0x80000000).writeReg 2 1) (fun t => (t.readReg 2, t.flagCY, t.flagOV, t.flagS, t.flagZ)) = some (0x80000000, false, true, true, false) := by decide

/-- R330: AND r1, r2. -/
theorem test_step_and :
    after ((((code 16 0x1141).writeReg 1 0xF0F0F0F).writeReg 2 0x80FF00FF).setPswBit 3 true) (fun t => (t.readReg 2, t.flagOV, t.flagS, t.flagZ, t.flagCY)) = some (0xF000F, false, false, false, true) := by decide

/-- R331: ANDI 0xFF00, r1, r2, ANDI 0, r1, r0. -/
theorem test_step_andi :
    after ((code 32 0xFF0016C1).writeReg 1 0xFFFF1234) (fun t => (t.readReg 2, t.flagOV, t.flagS, t.flagZ)) = some (0x1200, false, false, false) ∧
    after ((((code 32 0x6C1).writeReg 1 0xFFFFFFFF).setPswBit 2 true).setPswBit 1 true) (fun t => (t.flagZ, t.flagS, t.flagOV)) = some (true, false, false) := by decide

/-- R332: NOT r1, r2. -/
theorem test_step_not :
    after ((code 16 0x1021).writeReg 1 0) (fun t => (t.readReg 2, t.flagOV, t.flagS, t.flagZ)) = some (0xFFFFFFFF, false, true, false) := by decide

/-- R333: OR r1, r2. -/
theorem test_step_or :
    after (((code 16 0x1101).writeReg 1 0x80000000).writeReg 2 1) (fun t => (t.readReg 2, t.flagOV, t.flagS, t.flagZ)) = some (0x80000001, false, true, false) := by decide

/-- R334: ORI 0xFF00, r1, r2. -/
theorem test_step_ori :
    after ((code 32 0xFF001681).writeReg 1 0x12340000) (fun t => (t.readReg 2, t.flagOV, t.flagS, t.flagZ)) = some (0x1234FF00, false, false, false) := by decide

/-- R335: TST r1, r2. -/
theorem test_step_tst :
    after (((code 16 0x1161).writeReg 1 1).writeReg 2 0xFE) (fun t => (t.readReg 2, t.flagZ, t.flagS, t.flagOV)) = some (0xFE, true, false, false) := by decide

/-- R336: XOR r1, r2. -/
theorem test_step_xor :
    after (((code 16 0x1121).writeReg 1 0xFFFFFFFF).writeReg 2 0xFFFFFFFF) (fun t => (t.readReg 2, t.flagOV, t.flagS, t.flagZ)) = some (0, false, false, true) := by decide

/-- R337: XORI 0xFF00, r1, r2. -/
theorem test_step_xori :
    after ((code 32 0xFF0016A1).writeReg 1 0x8000FFFF) (fun t => (t.readReg 2, t.flagOV, t.flagS, t.flagZ)) = some (0x800000FF, false, true, false) := by decide

/-- R350: BSH r2, r3. -/
theorem test_step_bsh :
    after ((code 32 0x1B4217E0).writeReg 2 0x12345600) (fun t => (t.readReg 3, t.flagCY, t.flagOV, t.flagS, t.flagZ)) = some (0x34120056, true, false, false, false) := by decide

/-- R351: BSW r2, r3, BSW r2, r3. -/
theorem test_step_bsw :
    after ((code 32 0x1B4017E0).writeReg 2 0x12345678) (fun t => (t.readReg 3, t.flagCY, t.flagOV, t.flagS, t.flagZ)) = some (0x78563412, false, false, false, false) ∧
    after ((code 32 0x1B4017E0).writeReg 2 0x12005678) (fun t => (t.readReg 3, t.flagCY, t.flagS, t.flagZ)) = some (0x78560012, true, false, false) := by decide

/-- R352: CMOV Z, r1, r2, r3, CMOV Z, r1, r2, r3. -/
theorem test_step_cmov :
    after ((((code 32 0x1B2417E1).setPswBit 0 true).writeReg 1 0xA).writeReg 2 0xB) (fun t => (t.readReg 3, t.psw)) = some (0xA, 1) ∧
    after ((((code 32 0x1B2417E1).setPswBit 0 false).writeReg 1 0xA).writeReg 2 0xB) (fun t => t.readReg 3) = some 0xB := by decide

/-- R353: CMOV LT, -1, r2, r3. -/
theorem test_step_cmovImm5 :
    after ((((code 32 0x1B0C17FF).setPswBit 1 true).setPswBit 2 false).writeReg 2 7) (fun t => t.readReg 3) = some 0xFFFFFFFF := by decide

/-- R354: HSW r2, r3. -/
theorem test_step_hsw :
    after ((code 32 0x1B4417E0).writeReg 2 0x8000) (fun t => (t.readReg 3, t.flagCY, t.flagOV, t.flagS, t.flagZ)) = some (0x80000000, true, false, true, false) := by decide

/-- R355: SAR 4, r2. -/
theorem test_step_sarImm5 :
    after ((code 16 0x12A4).writeReg 2 0x80000008) (fun t => (t.readReg 2, t.flagCY, t.flagOV, t.flagS, t.flagZ)) = some (0xF8000000, true, false, true, false) := by decide

/-- R355: SAR r1, r2. -/
theorem test_step_sar :
    after (((code 32 0xA017E1).writeReg 1 0xFFFFFF21).writeReg 2 0xFFFFFFFD) (fun t => (t.readReg 2, t.flagCY, t.flagOV, t.flagS, t.flagZ)) = some (0xFFFFFFFE, true, false, true, false) := by decide

/-- R355: SAR r1, r2, r3. -/
theorem test_step_sar3 :
    after (((code 32 0x18A217E1).writeReg 1 8).writeReg 2 0x7FFFFF80) (fun t => (t.readReg 3, t.flagCY, t.flagS, t.flagZ)) = some (0x7FFFFF, true, false, false) := by decide

/-- R356: SASF Z, r2. -/
theorem test_step_sasf :
    after (((code 32 0x20017E2).setPswBit 0 true).writeReg 2 0x80000001) (fun t => t.readReg 2) = some 3 := by decide

/-- R357: SETF C, r2, SETF T, r2. -/
theorem test_step_setf :
    after (((code 32 0x17E1).setPswBit 3 true).writeReg 2 0xFFFFFFFF) (fun t => t.readReg 2) = some 1 ∧
    after (code 32 0x17E5) (fun t => t.readReg 2) = some 1 := by decide

/-- R358: HSH r2, r3. -/
theorem test_step_hsh :
    after ((code 32 0x1B4617E0).writeReg 2 0xFFFF0000) (fun t => (t.readReg 3, t.flagCY, t.flagOV, t.flagS, t.flagZ)) = some (0xFFFF0000, true, false, true, true) := by decide

/-- R359: SHL 4, r2. -/
theorem test_step_shlImm5 :
    after ((code 16 0x12C4).writeReg 2 0x10000000) (fun t => (t.readReg 2, t.flagCY, t.flagS, t.flagZ)) = some (0, true, false, true) := by decide

/-- R359: SHL r1, r2. -/
theorem test_step_shl :
    after (((code 32 0xC017E1).writeReg 1 0x21).writeReg 2 0xC0000001) (fun t => (t.readReg 2, t.flagCY, t.flagOV, t.flagS, t.flagZ)) = some (0x80000002, true, false, true, false) := by decide

/-- R359: SHL r1, r2, r3. -/
theorem test_step_shl3 :
    after ((((code 32 0x18C217E1).writeReg 1 0).writeReg 2 0x12345678).writeReg 3 0xFFFFFFFF) (fun t => (t.readReg 3, t.readReg 2, t.flagCY, t.flagZ)) = some (0x12345678, 0x12345678, false, false) := by decide

/-- R360: SHR 4, r2. -/
theorem test_step_shrImm5 :
    after ((code 16 0x1284).writeReg 2 0x80000008) (fun t => (t.readReg 2, t.flagCY, t.flagOV, t.flagS, t.flagZ)) = some (0x8000000, true, false, false, false) := by decide

/-- R360: SHR r1, r2. -/
theorem test_step_shr :
    after (((code 32 0x8017E1).writeReg 1 0).writeReg 2 0x80000000) (fun t => (t.readReg 2, t.flagCY, t.flagS, t.flagZ)) = some (0x80000000, false, true, false) := by decide

/-- R360: SHR r1, r2, r3. -/
theorem test_step_shr3 :
    after (((code 32 0x188217E1).writeReg 1 0x1F).writeReg 2 0x80000000) (fun t => (t.readReg 3, t.flagCY, t.flagS, t.flagZ)) = some (1, false, false, false) := by decide

/-- R361: SXB r1. -/
theorem test_step_sxb :
    after ((code 16 0xA1).writeReg 1 0x12345680) (fun t => (t.readReg 1, t.psw)) = some (0xFFFFFF80, 0) := by decide

/-- R362: SXH r1. -/
theorem test_step_sxh :
    after ((code 16 0xE1).writeReg 1 0x12348000) (fun t => t.readReg 1) = some 0xFFFF8000 := by decide

/-- R363: ZXB r1. -/
theorem test_step_zxb :
    after ((code 16 0x81).writeReg 1 0x123456FF) (fun t => t.readReg 1) = some 0xFF := by decide

/-- R364: ZXH r1. -/
theorem test_step_zxh :
    after ((code 16 0xC1).writeReg 1 0x1234FFFF) (fun t => t.readReg 1) = some 0xFFFF := by decide

/-- R370: SCH0L r2, r3, SCH0L r2, r3. -/
theorem test_step_sch0l :
    after ((code 32 0x1B6417E0).writeReg 2 0xFFFF0000) (fun t => (t.readReg 3, t.flagCY, t.flagOV, t.flagS, t.flagZ)) = some (0x11, false, false, false, false) ∧
    after ((code 32 0x1B6417E0).writeReg 2 0x7FFFFFFF) (fun t => (t.readReg 3, t.flagCY, t.flagZ)) = some (1, false, false) := by decide

/-- R371: SCH0R r2, r3, SCH0R r2, r3. -/
theorem test_step_sch0r :
    after ((code 32 0x1B6017E0).writeReg 2 0xFFFF) (fun t => (t.readReg 3, t.flagCY, t.flagZ)) = some (0x11, false, false) ∧
    after ((code 32 0x1B6017E0).writeReg 2 0x7FFFFFFF) (fun t => (t.readReg 3, t.flagCY, t.flagZ)) = some (0x20, true, false) := by decide

/-- R372: SCH1L r2, r3, SCH1L r2, r3. -/
theorem test_step_sch1l :
    after ((code 32 0x1B6617E0).writeReg 2 0x10000) (fun t => (t.readReg 3, t.flagCY, t.flagZ)) = some (0x10, false, false) ∧
    after ((code 32 0x1B6617E0).writeReg 2 0) (fun t => (t.readReg 3, t.flagCY, t.flagZ)) = some (0, false, true) := by decide

/-- R373: SCH1R r2, r3, SCH1R r2, r3. -/
theorem test_step_sch1r :
    after ((code 32 0x1B6217E0).writeReg 2 0x10000) (fun t => (t.readReg 3, t.flagCY, t.flagZ)) = some (0x11, false, false) ∧
    after ((code 32 0x1B6217E0).writeReg 2 0x80000000) (fun t => (t.readReg 3, t.flagCY, t.flagZ)) = some (0x20, true, false) := by decide

/-- R390: DIV r1, r2, r3, DIV r1, r2, r3. -/
theorem test_step_div :
    after ((((code 32 0x1AC017E1).writeReg 1 0xFFFFFFFD).writeReg 2 7).setPswBit 3 true) (fun t => (t.readReg 2, t.readReg 3, t.flagOV, t.flagS, t.flagZ)) = some (0xFFFFFFFE, 1, false, true, false) ∧
    after (((code 32 0x1AC017E1).writeReg 1 0xFFFFFFFF).writeReg 2 0x80000000) (fun t => (t.readReg 2, t.readReg 3, t.flagOV, t.flagS, t.flagZ)) = some (0x80000000, 0, true, true, false) := by decide

/-- R391: DIVH r1, r2. -/
theorem test_step_divh :
    after (((code 16 0x1041).writeReg 1 0x1FFFE).writeReg 2 7) (fun t => (t.readReg 2, t.flagOV, t.flagS, t.flagZ)) = some (0xFFFFFFFD, false, true, false) := by decide

/-- R392: DIVH r1, r2, r3, DIVH r1, r2, r3. -/
theorem test_step_divh3 :
    after (((code 32 0x1A8017E1).writeReg 1 3).writeReg 2 0xFFFFFFF9) (fun t => (t.readReg 2, t.readReg 3, t.flagOV, t.flagS, t.flagZ)) = some (0xFFFFFFFE, 0xFFFFFFFF, false, true, false) ∧
    after (((code 32 0x1A8017E1).writeReg 1 0x1234FFFF).writeReg 2 0x80000000) (fun t => (t.readReg 2, t.readReg 3, t.flagOV, t.flagS, t.flagZ)) = some (0x80000000, 0, true, true, false) := by decide

/-- R393: DIVHU r1, r2, r3. -/
theorem test_step_divhu :
    after (((code 32 0x1A8217E1).writeReg 1 0xFFFF0010).writeReg 2 0x123) (fun t => (t.readReg 2, t.readReg 3, t.flagOV, t.flagS, t.flagZ)) = some (0x12, 3, false, false, false) := by decide

/-- R394: DIVU r1, r2, r3, DIVU r1, r2, r3. -/
theorem test_step_divu :
    after (((code 32 0x1AC217E1).writeReg 1 2).writeReg 2 0xFFFFFFFF) (fun t => (t.readReg 2, t.readReg 3, t.flagOV, t.flagS, t.flagZ)) = some (0x7FFFFFFF, 1, false, false, false) ∧
    after (((code 32 0x1AC217E1).writeReg 1 1).writeReg 2 0x80000000) (fun t => (t.readReg 2, t.readReg 3, t.flagOV, t.flagS, t.flagZ)) = some (0x80000000, 0, false, true, false) := by decide

/-- R395: DIVQ r1, r2, r3. -/
theorem test_step_divq :
    after (((code 32 0x1AFC17E1).writeReg 1 0xFFFFFFFF).writeReg 2 0x80000000) (fun t => (t.readReg 2, t.readReg 3, t.flagOV, t.flagS, t.flagZ)) = some (0x80000000, 0, true, true, false) := by decide

/-- R396: DIVQU r1, r2, r3, DIVQU r1, r2, r3. -/
theorem test_step_divqu :
    after (((code 32 0x1AFE17E1).writeReg 1 0xA).writeReg 2 0x64) (fun t => (t.readReg 2, t.readReg 3, t.flagOV, t.flagS, t.flagZ)) = some (0xA, 0, false, false, false) ∧
    after (((code 32 0x1AFE17E1).writeReg 1 0x64).writeReg 2 0xA) (fun t => (t.readReg 2, t.readReg 3, t.flagOV, t.flagS, t.flagZ)) = some (0, 0xA, false, false, true) := by decide

/-- R410: BNE -4, BNE -4. -/
theorem test_step_bcond :
    after ((code 16 0xFDEA).setPswBit 0 false) (fun t => (t.pc, t.psw)) = some (0xFFC, 0) ∧
    after ((codeAt 0 16 0xFDEA).setPswBit 0 false) (fun t => t.pc) = some 0xFFFFFFFC := by decide

/-- R411: JARL 0x100, r31, JARL -2, r31. -/
theorem test_step_jarlDisp22 :
    after (code 32 0x100FF80) (fun t => (t.readReg 31, t.pc)) = some (0x1004, 0x1100) ∧
    after (code 32 0xFFFEFFBF) (fun t => (t.readReg 31, t.pc)) = some (0x1004, 0xFFE) := by decide

/-- R412: JARL 0x00100000, r31. -/
theorem test_step_jarlDisp32 :
    after (code 48 0x10000002FF) (fun t => (t.readReg 31, t.pc)) = some (0x1006, 0x101000) := by decide

/-- R413: JMP [r31], JMP [r1]. -/
theorem test_step_jmp :
    after ((code 16 0x7F).writeReg 31 0x1005) (fun t => t.pc) = some 0x1004 ∧
    after ((code 16 0x61).writeReg 1 0x12345678) (fun t => t.pc) = some 0xFE345678 := by decide

/-- R414: JMP 0x00002000[r1]. -/
theorem test_step_jmpDisp32 :
    after ((code 48 0x200006E1).writeReg 1 0x100) (fun t => t.pc) = some 0x2100 := by decide

/-- R415: JR -4, JR 0x1FFFFE. -/
theorem test_step_jrDisp22 :
    after (code 32 0xFFFC07BF) (fun t => t.pc) = some 0xFFC ∧
    after (code 32 0xFFFE079F) (fun t => t.pc) = some 0x200FFE := by decide

/-- R416: JR 0x00100000, JR 0x02000000. -/
theorem test_step_jrDisp32 :
    after (code 48 0x10000002E0) (fun t => t.pc) = some 0x101000 ∧
    after (code 48 0x200000002E0) (fun t => t.pc) = some 0xFE001000 := by decide

/-- R430: CLR1 3, 0x10[r1]. -/
theorem test_step_clr1 :
    after (((code 32 0x109FC1).writeReg 1 0x1000).write8 0x1010 0xFF) (fun t => (t.read8 0x1010, t.flagZ)) = some (0xF7, false) := by decide

/-- R430: CLR1 r2, [r1]. -/
theorem test_step_clr1Reg :
    after ((((code 32 0xE417E1).writeReg 1 0x1010).writeReg 2 0xB).write8 0x1010 0xF7) (fun t => (t.read8 0x1010, t.flagZ)) = some (0xF7, true) := by decide

/-- R431: NOT1 3, 0x10[r1], NOT1 3, 0x10[r1]. -/
theorem test_step_not1 :
    after (((code 32 0x105FC1).writeReg 1 0x1000).write8 0x1010 0) (fun t => (t.read8 0x1010, t.flagZ)) = some (8, true) ∧
    after (((code 32 0x105FC1).writeReg 1 0x1000).write8 0x1010 8) (fun t => (t.read8 0x1010, t.flagZ)) = some (0, false) := by decide

/-- R431: NOT1 r2, [r1]. -/
theorem test_step_not1Reg :
    after ((((code 32 0xE217E1).writeReg 1 0x1010).writeReg 2 3).write8 0x1010 0) (fun t => (t.read8 0x1010, t.flagZ)) = some (8, true) := by decide

/-- R432: SET1 7, -1[r1]. -/
theorem test_step_set1 :
    after (((code 32 0xFFFF3FC1).writeReg 1 0x1000).write8 0xFFF 1) (fun t => (t.read8 0xFFF, t.flagZ)) = some (0x81, true) := by decide

/-- R432: SET1 r2, [r1]. -/
theorem test_step_set1Reg :
    after ((((code 32 0xE017E1).writeReg 1 0xFFF).writeReg 2 7).write8 0xFFF 0x81) (fun t => (t.read8 0xFFF, t.flagZ)) = some (0x81, false) := by decide

/-- R433: TST1 3, 0x10[r1], TST1 2, 0x10[r1]. -/
theorem test_step_tst1 :
    after (((code 32 0x10DFC1).writeReg 1 0x1000).write8 0x1010 8) (fun t => (t.flagZ, t.read8 0x1010)) = some (false, 8) ∧
    after (((code 32 0x10D7C1).writeReg 1 0x1000).write8 0x1010 8) (fun t => (t.flagZ, t.read8 0x1010)) = some (true, 8) := by decide

/-- R433: TST1 r2, [r1]. -/
theorem test_step_tst1Reg :
    after ((((((code 32 0xE617E1).writeReg 1 0x1010).writeReg 2 3).write8 0x1010 8).setPswBit 3 true).setPswBit 1 true) (fun t => (t.flagZ, t.flagCY, t.flagS)) = some (false, true, true) := by decide

/-- R453: CALLT 5, CALLT 63. -/
theorem test_step_callt :
    after (setSys (fun y => { y with ctbp := 0x8000 }) ((setPsw 3 (code 16 0x205)).write16 0x800A 0x120)) (fun t => (t.sys.ctpc, t.sys.ctpsw, t.pc, t.psw)) = some (0x1002, 3, 0x8120, 3) ∧
    after (setSys (fun y => { y with ctbp := 0x8000 }) ((code 16 0x23F).write16 0x807E 0xFFFE)) (fun t => (t.sys.ctpc, t.pc)) = some (0x1002, 0x17FFE) := by decide

/-- R454: CAXI [r1], r2, r3, CAXI [r1], r2, r3. -/
theorem test_step_caxi :
    after (((((codeAt 0x2000 32 0x18EE17E1).writeReg 1 0x1000).writeReg 2 0).writeReg 3 1).write32 0x1000 0) (fun t => (wordAt t 0x1000, t.readReg 3, t.flagZ, t.flagCY, t.flagOV)) = some (1, 0, true, false, false) ∧
    after (((((codeAt 0x2000 32 0x18EE17E1).writeReg 1 0x1003).writeReg 2 5).writeReg 3 9).write32 0x1000 5) (fun t => (wordAt t 0x1000, t.readReg 3, t.flagZ)) = some (9, 5, true) := by decide

/-- R455: CTRET. -/
theorem test_step_ctret :
    after (setSys (fun y => { y with ctpc := 0x1002, ctpsw := 3 }) (setPsw 0x20 (code 32 0x14407E0))) (fun t => (t.pc, t.psw)) = some (0x1002, 3) := by decide

/-- R456: DI. -/
theorem test_step_di :
    after (code 32 0x16007E0) (fun t => (t.psw, t.pc)) = some (0x20, 0x1004) := by decide

/-- R457: DISPOSE 4, {r29, r31}. -/
theorem test_step_dispose :
    after ((((code 32 0x600648).writeReg 3 0x1FE8).write32 0x1FF8 0xBBBB0031).write32 0x1FFC 0xAAAA0029) (fun t => (t.readReg 31, t.readReg 29, t.readReg 3, t.pc)) = some (0xBBBB0031, 0xAAAA0029, 0x2000, 0x1004) := by decide

/-- R457: DISPOSE 4, {r29, r31}, [r31], DISPOSE 0, {}, [r31]. -/
theorem test_step_disposeJmp :
    after ((((code 32 0x7F0648).writeReg 3 0x1FE8).write32 0x1FF8 0xBBBB0031).write32 0x1FFC 0xAAAA0029) (fun t => (t.readReg 31, t.readReg 3, t.pc)) = some (0xBBBB0031, 0x2000, 0xFFBB0030) ∧
    after (((code 32 0x1F0640).writeReg 3 0x2000).writeReg 31 0x1234) (fun t => (t.readReg 3, t.pc)) = some (0x2000, 0x1234) := by decide

/-- R458: EI. -/
theorem test_step_ei :
    after (setPsw 0x20 (code 32 0x16087E0)) (fun t => t.psw) = some 0 := by decide

/-- R459: EIRET, EIRET. -/
theorem test_step_eiret :
    after (setSys (fun y => { y with eipc := 0x1004, eipsw := 8 }) (setPsw 0x60 (code 32 0x14807E0))) (fun t => (t.pc, t.psw, t.events)) = some (0x1004, 8, []) ∧
    after (setSys (fun y => { y with eipc := 0x1004, eipsw := 0x70001, mpm := 3 }) (setPsw 0x60 (code 32 0x14807E0))) (fun t => t.psw) = some 0x70001 := by decide

/-- R460: FERET. -/
theorem test_step_feret :
    after (setSys (fun y => { y with fepc := 0x2000, fepsw := 1 }) (setPsw 0xE1 (code 32 0x14A07E0))) (fun t => (t.pc, t.psw, t.events)) = some (0x2000, 1, []) := by decide

/-- R461: FETRAP 1, FETRAP 15. -/
theorem test_step_fetrap :
    after (code 16 0x840) (fun t => (t.sys.fepc, t.sys.fepsw, t.sys.feic, t.sys.ecr, t.psw)) = some (0x1002, 0, 0x31, 0x310000, 0xE0) ∧
    after (setSys (fun y => { y with ehBase := 0x100000 }) (setPsw 0x21 (code 16 0x7840))) (fun t => (t.sys.fepc, t.sys.fepsw, t.sys.feic, t.psw, t.pc)) = some (0x1002, 0x21, 0x3F, 0xE1, 0x100030) := by decide

/-- R462: HALT. -/
theorem test_step_halt :
    after (code 32 0x12007E0) (fun t => t.pc) = some 0x1004 := by decide

/-- R463: LDSR r1, 5, LDSR r1, 4. -/
theorem test_step_ldsr :
    after (setPsw 0x30 ((code 32 0x202FE1).writeReg 1 0)) (fun t => t.psw) = some 0 ∧
    after (setSys (fun y => { y with ecr := 0x5F }) ((code 32 0x2027E1).writeReg 1 0xFFFFFFFF)) (fun t => t.sys.ecr) = some 0x5F := by decide

/-- R464: NOP. -/
theorem test_step_nop :
    after (setPsw 0xFF (code 16 0x0)) (fun t => (t.pc, t.psw)) = some (0x1002, 0xFF) := by decide

/-- R465: PREPARE {r29, r31}, 4. -/
theorem test_step_prepare :
    after ((((code 32 0x610788).writeReg 3 0x2000).writeReg 29 0xAAAA0029).writeReg 31 0xBBBB0031) (fun t => (wordAt t 0x1FFC, wordAt t 0x1FF8, t.readReg 3, t.pc)) = some (0xAAAA0029, 0xBBBB0031, 0x1FE8, 0x1004) := by decide

/-- R465: PREPARE {r29, r31}, 4, sp. -/
theorem test_step_prepareSp :
    after (((((code 32 0x630788).writeReg 3 0x2000).writeReg 29 0xAAAA0029).writeReg 31 0xBBBB0031).writeReg 30 5) (fun t => (t.readReg 3, t.readReg 30)) = some (0x1FE8, 0x1FE8) := by decide

/-- R465: PREPARE {r29, r31}, 4, 0x8000 (sign-extended). -/
theorem test_step_prepareImm16 :
    after ((code 48 0x8000006B0788).writeReg 3 0x2000) (fun t => (t.readReg 30, t.pc)) = some (0xFFFF8000, 0x1006) := by decide

/-- R465: PREPARE {r29, r31}, 4, 0x8000 (shifted). -/
theorem test_step_prepareImm16Hi :
    after ((code 48 0x800000730788).writeReg 3 0x2000) (fun t => (t.readReg 30, t.pc)) = some (0x80000000, 0x1006) := by decide

/-- R465: PREPARE {r29, r31}, 4, 0x12345678. -/
theorem test_step_prepareImm32 :
    after ((code 64 0x12345678007B0788).writeReg 3 0x2000) (fun t => (t.readReg 30, t.pc)) = some (0x12345678, 0x1008) := by decide

/-- R466: RETI, RETI. -/
theorem test_step_reti :
    after (setSys (fun y => { y with fepc := 0x3000, fepsw := 0, eipc := 0x5000 }) (setPsw 0x80 (code 32 0x14007E0))) (fun t => (t.pc, t.psw, t.events)) = some (0x3000, 0, [.eoi]) ∧
    after (setSys (fun y => { y with fepc := 0x3000, eipc := 0x5000, eipsw := 2 }) (setPsw 0x20 (code 32 0x14007E0))) (fun t => (t.pc, t.psw, t.events)) = some (0x5000, 2, [.eoi]) := by decide

/-- R467: RIE. -/
theorem test_step_rie :
    after (setPsw 1 (codeAt 0x2000 16 0x40)) (fun t => (t.sys.fepc, t.sys.fepsw, t.sys.feic, highHalf t.sys.ecr, t.psw)) = some (0x2000, 1, 0x130, 0x130, 0xE1) := by decide

/-- R467: RIE 0, 0, RIE 31, 15. -/
theorem test_step_rieImm :
    after (setPsw 1 (codeAt 0x2000 32 0x7F0)) (fun t => (t.sys.fepc, t.sys.feic, t.psw, t.pc)) = some (0x2000, 0x130, 0xE1, 0x30) ∧
    after (codeAt 0x2000 32 0xFFFF) (fun t => (t.sys.fepc, t.sys.feic, t.pc)) = some (0x2000, 0x130, 0x30) := by decide

/-- R468: STSR 5, r2, STSR 31, r2. -/
theorem test_step_stsr :
    after (setPsw 0x21 (code 32 0x4017E5)) (fun t => t.readReg 2) = some 0x21 ∧
    after ((code 32 0x4017FF).writeReg 2 0xFFFFFFFF) (fun t => t.readReg 2) = some 0 := by decide

/-- R469: SWITCH r1, SWITCH r1. -/
theorem test_step_switch :
    after (((code 16 0x41).writeReg 1 2).write16 0x1006 0x10) (fun t => t.pc) = some 0x1022 ∧
    after (((code 16 0x41).writeReg 1 0).write16 0x1002 0xFFFF) (fun t => t.pc) = some 0x1000 := by decide

/-- R470: SYNCE. -/
theorem test_step_synce :
    after (code 16 0x1D) (fun t => t.pc) = some 0x1002 := by decide

/-- R471: SYNCM. -/
theorem test_step_syncm :
    after (code 16 0x1E) (fun t => t.pc) = some 0x1002 := by decide

/-- R472: SYNCP. -/
theorem test_step_syncp :
    after (code 16 0x1F) (fun t => t.pc) = some 0x1002 := by decide

/-- R473: SYSCALL 2, SYSCALL 0xFF. -/
theorem test_step_syscall :
    after (setSys (fun y => { y with scbp := 0x4000, sccfg := 3 }) (((code 32 0x160D7E2).write32 0x4008 0x100).write32 0x4000 0x40)) (fun t => (t.sys.eipc, t.sys.eipsw, t.sys.eiic, lowHalf t.sys.ecr, t.psw)) = some (0x1004, 0, 0x8002, 0x8002, 0x60) ∧
    after (setSys (fun y => { y with scbp := 0x4000, sccfg := 0xFF }) ((code 32 0x3960D7FF).write32 0x43FC 0xFFFFF000)) (fun t => (t.sys.eiic, t.pc)) = some (0x80FF, 0x3000) := by decide

/-- R474: TRAP 0x1F, TRAP 0x10. -/
theorem test_step_trap :
    after (setPsw 8 (code 32 0x10007FF)) (fun t => (t.sys.eipc, t.sys.eipsw, t.sys.eiic, lowHalf t.sys.ecr, t.psw)) = some (0x1004, 8, 0x5F, 0x5F, 0x68) ∧
    after (code 32 0x10007F0) (fun t => (t.sys.eiic, t.pc)) = some (0x50, 0x50) := by decide

/-- A reserved code raises RIE at its own address (D16, log 22); a fetch outside every area MIP, a load outside every area MDP. -/
theorem test_step_exceptions :
    after (code 16 0x0001) (fun t => (t.sys.feic, t.sys.fepc, t.pc, t.psw)) = some (0x130, 0x1000, 0x30, 0xE0) ∧
    after (setPsw 0x00010000 (setSys (fun y => { y with mpm := 1 }) (code 16 0))) (fun t =>
      (t.sys.feic, t.sys.vmecr, t.sys.vmadr, t.psw)) = some (0x430, 2, 0x1000, 0xE0) ∧
    after (setPsw 0x00020000 (setSys (fun y => { y with mpm := 1, tid := 9 }) (code 32 0xFFFF3700))) (fun t =>
      (t.sys.feic, t.sys.vmecr, t.sys.vmadr, t.sys.vmtid, t.psw)) = some (0x431, 4, 0xFFFFFFFF, 9, 0xE0) := by decide

/-- INT5 at EH_BASE + 80H + 50H; with RINT = 1 at EH_BASE + 80H; held while ID = 1 (R512, R531). -/
theorem test_step_interrupt :
    after (asked { Sample.none with int := some 5 } (code 16 0)) (fun t => (t.sys.eiic, t.sys.eipc, t.pc, t.psw, t.events)) =
      some (0xD0, 0x1000, 0xD0, 0x20, [.ack 0xD0]) ∧
    after (asked { Sample.none with int := some 5 } (setSys (fun y => { y with ehCfg := 1 }) (code 16 0))) (fun t => t.pc) = some 0x80 ∧
    after (asked { Sample.none with int := some 5 } (setPsw 0x20 (code 16 0))) (fun t => (t.pc, t.events)) = some (0x1002, []) := by
  decide

/-- HALT waits without a request, and ends with a held one, whose HALT is then followed by the next instruction (R462, D19). -/
theorem test_step_halted :
    after { code 16 0 with halted := true } (fun t => (t.pc, t.halted)) = some (0x1000, true) ∧
    after (asked { Sample.none with int := some 5 } { setPsw 0x20 (code 16 0) with halted := true }) (fun t => (t.pc, t.halted)) =
      some (0x1002, false) := by decide

/-! ## The platform behind the bus (R110, R121, R122; expected values by hand from D4 and D6) -/

/-- LD.W 0[r1], r2 at an aligned address of the platform: one read, its answer in r2. -/
theorem test_bus_read :
    after ((device [⟨0xCAFEF00D, none⟩, ⟨7, none⟩] (code 32 0x11721)).writeReg 1 0x1008)
      (fun t => (t.readReg 2, t.events, t.answers)) = some (0xCAFEF00D, [.busRead 0x1008 4], [⟨7, none⟩]) := by decide

/-- The same load with an error: SYSERR 2 at its own address, r2 as it was (R235(4)). -/
theorem test_bus_read_error :
    after (((device [⟨0xCAFEF00D, some (.syserr 2)⟩, ⟨7, none⟩] (code 32 0x11721)).writeReg 1 0x1008).writeReg 2 5)
      (fun t => (t.readReg 2, t.sys.feic, t.sys.fepc, t.pc, t.answers.length)) = some (5, 0x232, 0x1000, 0x30, 1) := by decide

/-- At 1006H the word has two bytes of plain memory and two of the platform: byte cycles in ascending order. -/
theorem test_bus_read_misaligned :
    after (((device [⟨0x33, none⟩, ⟨0x44, none⟩] (code 32 0x11721)).writeReg 1 0x1006).write16 0x1006 0x2211)
      (fun t => (t.readReg 2, t.events)) = some (0x44332211, [.busRead 0x1009 1, .busRead 0x1008 1]) := by decide

/-- ST.H r6, 0[r5] tells the platform the low halfword, and stores nothing. -/
theorem test_bus_write :
    after (((device [] (code 32 0x3765)).writeReg 5 0x1008).writeReg 6 0x12345678)
      (fun t => (t.events, t.read8 0x1008)) = some ([.busWrite 0x1008 2 0x5678], 0) := by decide

/-- ST.H r6, 0[r5] at 1007H: one byte to memory, one to the platform. -/
theorem test_bus_write_misaligned :
    after (((device [] (code 32 0x3765)).writeReg 5 0x1007).writeReg 6 0x12345678)
      (fun t => (t.events, t.read8 0x1007, t.read8 0x1008)) = some ([.busWrite 0x1008 1 0x56], 0x78, 0) := by decide

/-- The same store with an error for its second byte: MEP 1, and the byte at 1007H is not written (R235(4)). -/
theorem test_bus_write_error :
    after (((device [⟨0, some (.mep 1)⟩] (code 32 0x3765)).writeReg 5 0x1007).writeReg 6 0x12345678)
      (fun t => (t.events, t.read8 0x1007, t.sys.feic, t.sys.fepc)) = some ([.busWrite 0x1008 1 0x56], 0, 0x331, 0x1000) := by
  decide

/-- SET1 0, 0[r5] reads the byte from the platform and writes it back. -/
theorem test_bus_modify :
    after ((device [⟨0x80, none⟩] (code 32 0x07C5)).writeReg 5 0x100B) (fun t => (t.flagZ, t.events)) =
      some (true, [.busWrite 0x100B 1 0x81, .busRead 0x100B 1]) := by decide

/-- The same SET1 with an error for its write: SYSERR 3, and Z as it was. -/
theorem test_bus_modify_error :
    after ((device [⟨0x80, none⟩, ⟨0, some (.syserr 3)⟩] (code 32 0x07C5)).writeReg 5 0x100B)
      (fun t => (t.flagZ, t.sys.feic, t.events)) =
      some (false, 0x233, [.busWrite 0x100B 1 0x81, .busRead 0x100B 1]) := by decide

/-- ADD r1, r2 fetched from the platform; ADDI 28H, r16, r2 placed half in memory and half there. -/
theorem test_bus_fetch :
    after ((device [⟨0x11C1, none⟩, ⟨7, none⟩] { start with pc := 0x1008 }).writeReg 1 5)
      (fun t => (t.readReg 2, t.pc, t.events, t.answers)) =
      some (5, 0x100A, [.busFetch 0x1008], [⟨7, none⟩]) ∧
    after (((device [⟨7, none⟩] { start with pc := 0x1006 }).withFetchWord 32 0x00281610).writeReg 16 5)
      (fun t => (t.readReg 2, t.pc, t.answers)) = some (45, 0x100A, [⟨7, none⟩]) := by decide

/-- An error for the first halfword of ADDI: MEP 3, and the second halfword is not fetched. -/
theorem test_bus_fetch_error :
    after (device [⟨0x1610, some (.mep 3)⟩, ⟨7, none⟩] { start with pc := 0x1008 })
      (fun t => (t.sys.feic, t.sys.fepc, t.events, t.answers.length)) = some (0x333, 0x1008, [.busFetch 0x1008], 1) := by decide

/-- A reserved code that acts as ADD reg1, reg2 in the product, its operand fields kept (R193). -/
theorem test_reserved_acts :
    after (({ code 16 0x1001 with product := { Product.default with reserved := [⟨0xFFFF, 0x0000, 0, 0⟩] } } : State).writeReg 1 5)
      (fun t => t.readReg 2) = some 5 ∧
    (let s : State := { code 16 0x0001 with product := { Product.default with
        reserved := [⟨0xFFE0, 0x0000, 0x001F, 0x11C0⟩] } };
      after (s.writeReg 1 5) (fun t => (t.readReg 2, t.pc)) = some (5, 0x1002)) ∧
    after (code 16 0x0001) (fun t => t.sys.feic) = some 0x130 := by decide

/-- A coprocessor range told by the third halfword (R195): the same first two halfwords are MOV imm32, r1 outside it. -/
theorem test_coproc_third_halfword :
    let s (w : Nat) : State := { code 48 w with product := { Product.default with
      coproc := [⟨0xFF000000FFFF, 0x120000000621, 3⟩] } }
    after (s 0x123456780621) (fun t => (t.sys.feic, t.sys.fepc, t.readReg 1)) = some (0x533, 0x1000, 0) ∧
      after (s 0x133456780621) (fun t => (t.pc, t.readReg 1)) = some (0x1006, 0x13345678) := by decide

/-- A coprocessor range told by the fourth halfword: the other code is PREPARE with imm32, and ep is its immediate. -/
theorem test_coproc_fourth_halfword :
    let s (w : Nat) : State := { code 64 w with product := { Product.default with
      coproc := [⟨0xFFFF000000000000, 0x1234000000000000, 0⟩] } }
    after (s 0x12345678001B0780) (fun t => (t.sys.feic, t.sys.fepc)) = some (0x530, 0x1000) ∧
      after (s 0x13345678001B0780) (fun t => (t.sys.feic, t.readReg 30)) = some (0, 0x13345678) := by decide

/-- Displacements as R197 writes them, with their bytes: 2[r3], JARL 0x100, BR -2, 4[ep] of SLD.W, and imm5 = 31 of PREPARE. -/
theorem test_assembly_displacements :
    decodeTableWord 32 0x0002FF23 = some (.ldH 1 3 31) ∧ (start.writeReg 3 0x2000).addr15 1 3 = 0x2002 ∧
      branch22 0x80 = 0x100 ∧ decodeTableWord 16 0xFDF5 = some (.bcond .t 0xFF) ∧ branch9 0xFF = -2 ∧
      decodeTableWord 16 0x0D02 = some (.sldW 1 1) ∧ (start.writeReg 30 0x2000).epAddr8w 1 = 0x2004 ∧
      frameBytes 31 = 124 := by decide

/-! ## States that meet the hypotheses of the statements -/

/-- PSW.DMP = 1, and area 0 permits everything at 1000H to 100FH and nothing elsewhere. -/
def guarded : State :=
  setPsw 0x00020000 (setSys (fun y => { y with mpm := 1, paL := #v[0x1003, 0, 0, 0], paU := #v[0x1007, 0, 0, 0] }) start)

/-- The NT state: NPV = DMP = IMP = 1 under MPE = AUE = 1, all memory in area 0. -/
def untrusted : State :=
  setPsw 0x00070000 (setSys (fun y => { y with mpm := 3, paL := #v[0x3, 0, 0, 0], paU := #v[0xFFFFFFF7, 0, 0, 0] }) start)

/-- A product without the protection function. -/
def unprotected : State := { start with product := { Product.default with protectionPresent := false } }

/-! The form of the machine. -/

theorem inv_start : Inv start :=
  { r0 := rfl, pc := rfl, psw := rfl, mem := rfl, lag := fun h => absurd rfl h
    sys := ⟨rfl, rfl, rfl, rfl, rfl, rfl, rfl, rfl, rfl, rfl, rfl, rfl, rfl, rfl, rfl, rfl, by decide, by decide, rfl, rfl, rfl⟩ }

theorem inv_untrusted : Inv untrusted :=
  { r0 := rfl, pc := rfl, psw := rfl, mem := rfl, lag := fun h => absurd rfl h
    sys := ⟨rfl, rfl, rfl, rfl, rfl, rfl, rfl, rfl, rfl, rfl, rfl, rfl, rfl, rfl, rfl, rfl, by decide, by decide, rfl, rfl, rfl⟩ }

theorem inv_unprotected : Inv unprotected :=
  { r0 := rfl, pc := rfl, psw := rfl, mem := rfl, lag := fun h => absurd rfl h
    sys := ⟨rfl, rfl, rfl, rfl, rfl, rfl, rfl, rfl, rfl, rfl, rfl, rfl, rfl, rfl, rfl, rfl, by decide, by decide, rfl, rfl, rfl⟩ }

/-! Encoding. -/

theorem witness_DecodeEncodeRoundTrip :
    (Instr.ldBDisp23 0x400000 31 31).WellFormed ∧ (Instr.movImm5 0x10 1).WellFormed ∧ (Instr.adf .gt 31 31 31).WellFormed := by decide

theorem witness_DecodedBytesAreEncoding :
    decode [0xC1, 0x11, 0xFF] = .instr (.add 1 2) [0xFF] ∧ decode [0x00, 0x00] = .instr .nop [] := by decide

/-! The step. -/

/-- Without addresses of the platform all memory is plain. -/
theorem plain_of {s : State} (h : s.product.io = []) (a : Word) (n : Nat) : Plain s a n := by
  intro k _; simp [State.isIo, h]

theorem runs_of {s : State} (h1 : s.halted = false) (h2 : s.inputs = []) (h3 : s.fetchViolates = false)
    (h4 : s.product.coproc = []) (h5 : s.fetchError none = none) : Runs s := by
  have e : s.sample = Sample.none := by simp [State.sample, h2]
  refine ⟨h1, ⟨?_, ?_, ?_, ?_, ?_⟩, h3, ?_, ?_⟩ <;> simp [e, Sample.none, coprocCode, h4]
  exact h5

/-- A decoded instruction, a reserved code that acts as one, and one whose halfword the platform answers. -/
theorem witness_StepRunsDecodedInstruction :
    (Runs (code 16 0x11C1) ∧ PlainCode (code 16 0x11C1) ∧
      ∃ rest, decode (code 16 0x11C1).fetchBytes = .instr (.add 1 2) rest) ∧
    (let s : State := { code 16 0x0001 with product := { Product.default with
        reserved := [⟨0xFFE0, 0x0000, 0x001F, 0x11C0⟩] } };
      Runs s ∧ decode s.fetchBytes = .rejected .reservedOpcode ∧
        reservedAction s.product.reserved s.code = some (.add 1 2)) ∧
    Runs (device [⟨0x11C1, none⟩] { start with pc := 0x1008 }) :=
  ⟨⟨runs_of (by decide) (by decide) (by decide) (by decide) (by decide), fun _ _ => plain_of (by decide) _ _, _,
    (by decide : _ = Decoded.instr (.add 1 2) [0, 0, 0, 0, 0, 0])⟩,
    ⟨runs_of (by decide) (by decide) (by decide) (by decide) (by decide), by decide, by decide⟩,
    runs_of (by decide) (by decide) (by decide) (by decide) (by decide)⟩

/-- The four stages, the first with a FEINT and an INT that NP holds. -/
theorem witness_FetchStageExceptions :
    (let s := asked { Sample.none with feint := true, int := some 255 } (setPsw 0x00010080 start);
      s.halted = false ∧ s.fetchViolates = true ∧ s.sample.fenmi = false ∧ s.sample.syserr = none ∧ s.pswNP = true) ∧
    (let s := asked { Sample.none with mep := some 3 } start; s.fetchViolates = false ∧ s.sample.mep = some 3) ∧
    (let s := device [⟨0x1610, none⟩, ⟨0, some (.syserr 0)⟩] { start with pc := 0x1008 };
      s.fetchViolates = false ∧ s.sample.mep = none ∧ 2 * 1 < s.fetchLength ∧ s.halfError 1 = some (.syserr 0) ∧
        s.halfError 0 = none ∧ s.fetchError s.sample.mep = some (.syserr 0)) ∧
    PlainCode start ∧
    (let s : State := { code 16 0x11C1 with product := { Product.default with coproc := [⟨0xFFFF, 0x11C1, 7⟩] } };
      s.fetchViolates = false ∧ s.fetchError s.sample.mep = none ∧ coprocCode s.product.coproc s.code = some 7) ∧
    (let s := code 16 0x0001;
      s.fetchViolates = false ∧ s.fetchError s.sample.mep = none ∧ coprocCode s.product.coproc s.code = none ∧
        decode s.fetchBytes = .rejected .reservedOpcode ∧ reservedAction s.product.reserved s.code = none) :=
  ⟨by decide, by decide, by decide, fun _ _ => plain_of (by decide) _ _, by decide, by decide⟩

theorem nothing_of {s : State} (h : s.inputs = []) : NothingAccepted s := by
  have e : s.sample = Sample.none := by simp [State.sample, h]
  refine ⟨?_, ?_, ?_, ?_, ?_⟩ <;> simp [e, Sample.none]

/-- Nothing is accepted when a FEINT and an INT are held by NP = 1, or an INT by ID = 1. -/
theorem witness_NothingAccepted :
    NothingAccepted (asked { Sample.none with feint := true, int := some 255 } (setPsw 0x00010080 start)) ∧
      NothingAccepted (asked { Sample.none with int := some 0 } (setPsw 0x20 start)) ∧
      NothingAccepted (asked { Sample.none with mep := some 3 } start) :=
  ⟨⟨rfl, rfl, rfl, fun _ => rfl, fun _ => .inl rfl⟩, ⟨rfl, rfl, rfl, fun h => absurd h (by decide), fun _ => .inr rfl⟩,
    ⟨rfl, rfl, rfl, fun h => absurd h (by decide), fun h => absurd rfl h⟩⟩

theorem witness_InterruptAcceptance :
    (asked { Sample.none with fenmi := true, syserr := some 3, feint := true, int := some 0 } start).sample.reset = false ∧
    (let s := asked { Sample.none with syserr := some 3, feint := true } start;
      s.sample.fenmi = false ∧ s.sample.syserr = some 3) ∧
    (let s := asked { Sample.none with feint := true, int := some 0 } start;
      s.sample.syserr = none ∧ s.sample.feint = true ∧ s.pswNP = false) ∧
    (let s := asked { Sample.none with int := some 255 } start;
      s.sample.feint = false ∧ s.sample.int = some 255 ∧ s.pswNP = false ∧ s.pswID = false) := by decide

/-- HALT mode with nothing requested, and with an INT that ID holds. -/
theorem witness_HaltModeWaits :
    (let s : State := { start with halted := true };
      s.sample.reset = false ∧ s.sample.fenmi = false ∧ s.sample.syserr = none ∧ s.sample.feint = false ∧ s.sample.int = none) ∧
    (let s := asked { Sample.none with int := some 0 } { setPsw 0x20 start with halted := true };
      s.halted = true ∧ s.sample.reset = false ∧ s.sample.int ≠ none) := by decide

theorem witness_ResetInputResets :
    (asked { Sample.none with reset := true, fenmi := true } { untrusted with halted := true }).sample.reset = true := by decide

/-- Inv holds and a step answers a next state; the PC stands at the last halfword of the low half of the space. -/
theorem witness_StepKeepsInvariant :
    Inv { start with pc := 0x01FFFFFE } ∧ (after { start with pc := 0x01FFFFFE } fun t => t.pc) = some 0xFE000000 :=
  ⟨{ inv_start with pc := rfl }, by decide⟩

theorem witness_RegisterZeroStaysZero :
    start.gr[0] = 0 ∧ (after (code 16 0x01C1) fun t => t.gr[0]) = some 0 := by decide

theorem witness_PcStaysInInstructionSpace :
    pcmask 0x01FFFFFE = 0x01FFFFFE ∧ pcmask 0xFE000000 = 0xFE000000 ∧ pcmask 0xFFFFFFFE = 0xFFFFFFFE ∧
      (after { start with pc := 0xFFFFFFFE } fun t => t.pc) = some 0 := by decide

/-! Memory and its protection. -/

/-- Plain memory of each size; the two ends of the platform's addresses, aligned and misaligned; misaligned words whose first
and whose last byte has the first error, and one without; no answer left. -/
theorem witness_MemoryIsLittleEndian :
    let s := device [⟨0, some (.mep 3)⟩] start
    let u := device [⟨0, none⟩, ⟨0, none⟩, ⟨0, some (.syserr 0)⟩] start
    (∀ a n, Plain start a n ∧ Plain guarded a n) ∧ Plain s 0x1004 4 ∧ Plain s 0x100C 4 ∧
    (0x1008 : Word).toNat % 4 = 0 ∧ ¬Plain s 0x1008 4 ∧ (0x100A : Word).toNat % 2 = 0 ∧ ¬Plain s 0x100A 2 ∧
    ¬Plain s 0x100B 1 ∧ (0x1009 : Word).toNat % 4 ≠ 0 ∧ (0x1007 : Word).toNat % 2 ≠ 0 ∧
    s.busError 0x1009 1 = some (.mep 3) ∧ s.busError 0x1007 1 = none ∧ s.busError 0x1007 2 = some (.mep 3) ∧
    ((List.range 2).foldl (fun u j => u.afterRead (0x1009 + BitVec.ofNat 32 j) 1) u).busError 0x100B 1 =
      some (.syserr 0) ∧ u.busError 0x1009 4 = some (.syserr 0) ∧ start.busError 0x1009 4 = none ∧ start.answers = [] := by
  refine ⟨fun _ _ => ⟨plain_of (by decide) _ _, plain_of (by decide) _ _⟩, ?_, ?_, by decide, ?_, by decide, ?_, ?_, by decide⟩ <;>
    (unfold Plain; decide)

/-- Each load at an end of the permitted area, its base register r0, r3 or r30. -/
theorem witness_LoadsGiveMemory :
    let s := guarded.writeReg 30 0x1000
    let u := guarded.writeReg 3 0x1010
    Permitted s (s.addr16 0x1000 0) 1 .load (isSp 0) ∧ Permitted s (s.addr16 0x100F 0) 1 .load (isSp 0) ∧
    Permitted u (u.addr16 0xFFFF 3) 1 .load (isSp 3) ∧ Permitted u (u.addr15 0x7FFF 3) 2 .load (isSp 3) ∧
    Permitted s (s.addr15 0x800 0) 2 .load (isSp 0) ∧ Permitted u (u.addr15 0x7FFE 3) 4 .load (isSp 3) ∧
    Permitted s (s.addr23 0x100F 0) 1 .load (isSp 0) ∧ Permitted s (s.addr22 0x807 0) 2 .load (isSp 0) ∧
    Permitted s (s.addr22 0x806 0) 4 .load (isSp 0) ∧ Permitted s (s.epAddr7 15) 1 .load false ∧
    Permitted s (s.epAddr4 15) 1 .load false ∧ Permitted s (s.epAddr8 7) 2 .load false ∧
    Permitted s (s.epAddr5 7) 2 .load false ∧ Permitted s (s.epAddr8w 3) 4 .load false ∧
    Permitted (guarded.writeReg 1 0x1001) ((guarded.writeReg 1 0x1001).addr15 0 1) 4 .load (isSp 1) ∧
    (let d := device [⟨0, none⟩, ⟨0, some (.syserr 3)⟩] guarded;
      Permitted d (d.addr15 0x804 0) 4 .load (isSp 0) ∧ d.busError (d.addr15 0x804 0) 4 = none ∧
        Permitted d (d.addr23 0x1009 0) 4 .load (isSp 0) ∧ d.busError (d.addr23 0x1009 0) 4 = some (.syserr 3)) := by
  refine ⟨?_, ?_, ?_, ?_, ?_, ?_, ?_, ?_, ?_, ?_, ?_, ?_, ?_, ?_, ?_, ?_⟩ <;> (unfold Permitted; decide)

/-- Each store at an end of the permitted area; and a misaligned one. -/
theorem witness_StoresWriteMemory :
    let s := guarded.writeReg 30 0x1000
    let u := guarded.writeReg 3 0x1010
    Permitted s (s.addr16 0x1000 0) 1 .store (isSp 0) ∧ Permitted u (u.addr16 0xFFFF 3) 1 .store (isSp 3) ∧
    Permitted s (s.addr15 0x807 0) 2 .store (isSp 0) ∧ Permitted u (u.addr15 0x7FFE 3) 4 .store (isSp 3) ∧
    Permitted s (s.addr23 0x100F 0) 1 .store (isSp 0) ∧ Permitted s (s.addr22 0x807 0) 2 .store (isSp 0) ∧
    Permitted s (s.addr22 0x806 0) 4 .store (isSp 0) ∧ Permitted s (s.epAddr7 15) 1 .store false ∧
    Permitted s (s.epAddr8 7) 2 .store false ∧ Permitted s (s.epAddr8w 3) 4 .store false ∧
    Permitted (guarded.writeReg 1 0x1001) ((guarded.writeReg 1 0x1001).addr15 0 1) 4 .store (isSp 1) ∧
    (let d := device [⟨0, none⟩, ⟨0, some (.mep 0)⟩] guarded;
      Permitted d (d.addr15 0x804 0) 4 .store (isSp 0) ∧ d.busError (d.addr15 0x804 0) 4 = none ∧
        Permitted d (d.addr23 0x1009 0) 4 .store (isSp 0) ∧ d.busError (d.addr23 0x1009 0) 4 = some (.mep 0)) := by
  refine ⟨?_, ?_, ?_, ?_, ?_, ?_, ?_, ?_, ?_, ?_, ?_, ?_⟩ <;> (unfold Permitted; decide)

/-- Of each size one access just inside the area and one just outside, aligned and misaligned. -/
theorem witness_DataCheckDecidesViolation :
    guarded.violates (loadAccess 0x100F 1 false) = false ∧ guarded.violates (loadAccess 0x1010 1 false) = true ∧
    guarded.violates (loadAccess 0x100E 2 false) = false ∧ guarded.violates (loadAccess 0x100F 2 false) = true ∧
    guarded.violates (storeAccess 0x1000 4 true) = false ∧ guarded.violates (storeAccess 0xFFC 4 true) = true ∧
    guarded.violates (loadAccess 0x01FFFFFE 4 false) = true := by decide

theorem witness_ViolatedAccessEntersMdp :
    (dataAccess (.ldB 0x1010 0 5) guarded = some (loadAccess 0x1010 1 false) ∧ guarded.violates (loadAccess 0x1010 1 false) = true) ∧
    (dataAccess (.stW 5 0 1) (guarded.writeReg 1 0x100D) = some (storeAccess 0x100D 4 false) ∧
      (guarded.writeReg 1 0x100D).violates (storeAccess 0x100D 4 false) = true) ∧
    (dataAccess (.stWDisp23 5 0x808 0) guarded = some (storeAccess 0x1010 4 false) ∧
      guarded.violates (storeAccess 0x1010 4 false) = true) ∧
    (dataAccess (.set1 7 0xFFFF 0) guarded = some (modifyAccess 0xFFFFFFFF 1 false) ∧
      guarded.violates (modifyAccess 0xFFFFFFFF 1 false) = true) ∧
    (dataAccess (.tst1Reg 1 3) guarded = some (testAccess 0 true) ∧ guarded.violates (testAccess 0 true) = true) ∧
    (dataAccess (.caxi 3 1 2) guarded = some (modifyAccess 0 4 true) ∧ guarded.violates (modifyAccess 0 4 true) = true) ∧
    (dataAccess (.callt 0) guarded = some (tableAccess 0) ∧ guarded.violates (tableAccess 0) = true) ∧
    (dataAccess (.switch 1) (guarded.writeReg 1 7) = some (tableAccess 0x1010) ∧
      (guarded.writeReg 1 7).violates (tableAccess 0x1010) = true) := by
  decide

theorem witness_ViolationCauseTable : (0xFFFFFFFC : Word).toNat % 4 = 0 ∧ (0xFFFFFFFD : Word).toNat % 4 ≠ 0 := by decide

/-! Results. -/

theorem witness_SaturatedOperations :
    2 ^ 31 - 1 < (0x7FFFFFFF : Word).toInt + (1 : Word).toInt ∧ (0x80000000 : Word).toInt + (0xFFFFFFFF : Word).toInt < -2 ^ 31 ∧
      (0x7FFFFFFF : Word).toInt + (0 : Word).toInt = 2 ^ 31 - 1 ∧ (0x80000000 : Word).toInt - (0 : Word).toInt = -2 ^ 31 := by decide

/-- Counts 0 and 31 of reg1 and of imm5. -/
theorem witness_ShiftsMoveBits :
    0 = ((start.writeReg 1 0xFFFFFFE0).readReg 1).toNat % 32 ∧ 31 = ((start.writeReg 1 0xFFFFFFFF).readReg 1).toNat % 32 ∧
      0 = (0 : BitVec 5).toNat ∧ 31 = (0x1F : BitVec 5).toNat := by decide

theorem witness_SwapsExchangeBytes : (0x12345678 : Word) = (start.writeReg 2 0x12345678).readReg 2 := by decide

/-- The first position at 1 and at 32, and no position. -/
theorem witness_BitSearches :
    (0x80000000 : Word).getLsbD (32 - 1) = true ∧ (1 : Word).getLsbD (32 - 32) = true ∧
      (∀ j, 1 ≤ j → j < 32 → (1 : Word).getLsbD (32 - j) ≠ true) ∧ (∀ j, 1 ≤ j → j ≤ 32 → (0 : Word).getLsbD (32 - j) ≠ true) := by
  refine ⟨by decide, by decide, fun j h1 h2 => ?_, fun j _ _ => by simp⟩
  have : 32 - j ≠ 0 := by omega
  simp [BitVec.getLsbD_one, this]

/-- An ordinary division, the overflow case, and a divisor whose low halfword is not 0. -/
theorem witness_SignedDivisions :
    (2 : Reg) ≠ 3 ∧ ((start.writeReg 1 0xFFFFFFFF).readReg 1).toInt ≠ 0 ∧ (lowHalf ((start.writeReg 1 0xFFFFFFFF).readReg 1)).toInt ≠ 0 ∧
      ((start.writeReg 2 0x80000000).readReg 2).toInt = -2 ^ 31 ∧ ((start.writeReg 1 0xFFFFFFFF).readReg 1).toInt = -1 ∧
      ¬(((start.writeReg 2 0x80000001).readReg 2).toInt = -2 ^ 31) := by decide

theorem witness_UnsignedDivisions :
    (2 : Reg) ≠ 3 ∧ ((start.writeReg 1 0xFFFFFFFF).readReg 1).toNat ≠ 0 ∧ (lowHalf ((start.writeReg 1 0xFFFF0001).readReg 1)).toNat ≠ 0 := by
  decide

theorem witness_DivisionByZeroSetsOverflow :
    (2 : Reg) ≠ 3 ∧ start.readReg 1 = 0 ∧ lowHalf ((start.writeReg 1 0xFFFF0000).readReg 1) = 0 := by decide

theorem witness_DivisionIntoOneRegister :
    ((start.writeReg 2 0x80000000).readReg 2).toInt ≠ 0 ∧ (start.writeReg 1 1).readReg 1 ≠ 0 ∧
      lowHalf ((start.writeReg 1 0xFFFF8000).readReg 1) ≠ 0 := by decide

/-- Both forms at an end of the permitted area, the base register sp and not; an error of the read, of the write, and none. -/
theorem witness_BitInstructions :
    let s := (guarded.writeReg 1 0x1000).writeReg 3 0x100F
    (0x100F : Word) = s.readReg 1 + BitVec.ofInt 32 (0xF : Half).toInt ∧ Permitted s 0x100F 1 .modify (decide ((1 : Reg) = 3)) ∧
    Permitted s 0x100F 1 .bitTest (decide ((1 : Reg) = 3)) ∧ (0x100F : Word) = s.readReg 3 ∧
    0 = (s.readReg 30).toNat % 8 ∧ 7 = (s.readReg 3).toNat % 8 ∧
    Permitted s 0x100F 1 .modify (decide ((3 : Reg) = 3)) ∧ Permitted s 0x100F 1 .bitTest (decide ((3 : Reg) = 3)) ∧
    (let d := device [⟨0, none⟩, ⟨0, none⟩] s;
      Permitted d 0x1008 1 .modify true ∧ d.busError 0x1008 1 = none ∧ (d.afterRead 0x1008 1).busError 0x1008 1 = none) ∧
    (let d := device [⟨0, some (.mep 3)⟩] s; Permitted d 0x100B 1 .bitTest true ∧ d.busError 0x100B 1 = some (.mep 3)) ∧
    (let d := device [⟨0, none⟩, ⟨0, some (.syserr 0)⟩] s;
      d.busError 0x100B 1 = none ∧ (d.afterRead 0x100B 1).busError 0x100B 1 = some (.syserr 0)) := by
  refine ⟨by decide, ?_, ?_, by decide, by decide, by decide, ?_, ?_, ?_, ?_, by decide⟩ <;> (unfold Permitted; decide)

/-! The stack frame: with sp = 1010H and r29, r31 listed both stores are permitted, the second to the platform; with sp = 1004H
only the first. -/

theorem witness_PrepareBuildsFrame :
    let s := guarded.writeReg 3 0x1010
    let d := device [⟨0, none⟩] s
    (ascending 0x006).length = 2 ∧
      (∀ j, j < (ascending 0x006).length → Permitted s (pushAddr s j) 4 .push true ∧ PushAccepted s 0x006 j) ∧
      (∀ j, j < (ascending 0x006).length → Plain s (pushAddr s j) 4) ∧
      (Permitted d (pushAddr d 1) 4 .push true ∧ PushAccepted d 0x006 1) :=
  ⟨by decide, fun j hj => ⟨by revert j hj; unfold Permitted; decide, .inl (plain_of (by decide) _ _)⟩,
    fun _ _ => plain_of (by decide) _ _, by unfold Permitted; decide, .inr (by decide)⟩

theorem witness_DisposeRemovesFrame :
    let s := guarded.writeReg 3 0x1000
    let d := device [⟨0, none⟩] s
    (descending 0xFFF).length = 12 ∧
      (∀ j, j < (descending 0x006).length → Permitted s (popAddr s 2 j) 4 .pop true ∧ PopAccepted s 2 j) ∧
      (descending 0).length = 0 ∧ (∀ j, j < (descending 0x006).length → Plain s (popAddr s 2 j) 4) ∧
      (Permitted d (popAddr d 1 1) 4 .pop true ∧ PopAccepted d 1 1) :=
  ⟨by decide, fun j hj => ⟨by revert j hj; unfold Permitted; decide, .inl (plain_of (by decide) _ _)⟩, by decide,
    fun _ _ => plain_of (by decide) _ _, by unfold Permitted; decide, .inr (by decide)⟩

/-- A violation of the first and of the second access, and an error of the second, at 1008H. -/
theorem witness_StackViolationStopsMidway :
    let s := guarded.writeReg 3 0x1004
    let u := guarded.writeReg 3 0x1000
    let d := device [⟨0, some (.syserr 3)⟩] (guarded.writeReg 3 0x1010)
    let e := device [⟨0, some (.mep 0)⟩] (guarded.writeReg 3 0x1000)
    0 < (ascending 0x006).length ∧ 1 < (ascending 0x006).length ∧
    s.violates (pushAccess (pushAddr s 1)) = true ∧
    (∀ j', j' < 1 → Permitted s (pushAddr s j') 4 .push true ∧ PushAccepted s 0x006 j') ∧
    u.violates (pushAccess (pushAddr u 0)) = true ∧
    u.violates (popAccess (popAddr u 3 1)) = true ∧
    (∀ j', j' < 1 → Permitted u (popAddr u 3 j') 4 .pop true ∧ PopAccepted u 3 j') ∧
    u.violates (popAccess (popAddr u 4 0)) = true ∧
    (Permitted d (pushAddr d 0) 4 .push true ∧ PushAccepted d 0x006 0 ∧ Permitted d (pushAddr d 1) 4 .push true ∧
      (pushesDone d 0x006 1).busError (pushAddr d 1) 4 = some (.syserr 3)) ∧
    (Permitted e (popAddr e 1 0) 4 .pop true ∧ PopAccepted e 1 0 ∧ Permitted e (popAddr e 1 1) 4 .pop true ∧
      (popsDone e 1 1).busError (popAddr e 1 1) 4 = some (.mep 0)) := by
  refine ⟨by decide, by decide, by decide, fun j hj => ⟨by revert j hj; unfold Permitted; decide, .inl (plain_of (by decide) _ _)⟩,
    by decide, by decide, fun j hj => ⟨by revert j hj; unfold Permitted; decide, .inl (plain_of (by decide) _ _)⟩, by decide,
    ⟨?_, .inr (by decide), ?_, by decide⟩, ?_, .inr (by decide), ?_, by decide⟩ <;> (unfold Permitted; decide)

/-- The table of SYSCALL in plain memory, and at the platform, with and without an error. -/
theorem witness_SoftwareExceptions :
    let s := device [⟨0, some (.syserr 1)⟩] (setSys (fun y => { y with scbp := 0x1000, sccfg := 2 }) start)
    0x1008 = s.sys.scbp + BitVec.ofNat 32 (if (2 : BitVec 8).toNat ≤ s.sys.sccfg.toNat % 256 then 4 * (2 : BitVec 8).toNat else 0) ∧
      s.busError 0x1008 4 = some (.syserr 1) ∧ (device [] s).busError 0x1008 4 = none ∧ Plain start 0 4 := by
  refine ⟨by decide, by decide, by decide, plain_of (by decide) _ _⟩

/-! System registers. -/

theorem witness_LdsrWritesRegister :
    start.pswNPV = false ∧ (resolve start.sys.bsel 0 = some .eipc ∧ SysReg.eipc ∉ [SysReg.psw, .mpm, .mpc, .swCtl] ∧
      SysReg.eipc.protectionGroup = false) ∧
    (resolve 0x1001 13 = some (.paU 3) ∧ SysReg.paU 3 ∉ [SysReg.psw, .mpm, .mpc, .swCtl] ∧ start.product.protectionPresent = true) ∧
    resolve start.sys.bsel 6 = none ∧ resolve 0x1001 27 = none ∧
    (let u := setSys (fun y => { y with bsel := 0x1001 }) unprotected;
      u.pswNPV = false ∧ resolve u.sys.bsel 0 = some .mpm ∧ SysReg.mpm.protectionGroup = true ∧
        resolve u.sys.bsel 13 = some (.paU 3) ∧ (SysReg.paU 3).protectionGroup = true ∧
        u.product.protectionPresent = false) := by decide

/-- With no delay configured, with a delay of 3 and an LDSR that sets IMP, and in the NT state. -/
theorem witness_LdsrWritesPsw :
    resolve start.sys.bsel 5 = some .psw ∧ start.pswNPV = false ∧ start.product.impDelay = 0 ∧ start.impLag = 0 ∧
      resolve untrusted.sys.bsel 5 = some .psw ∧ untrusted.pswNPV = true ∧
    (let s : State := setSys (fun y => { y with mpm := 1 })
        ({ start with product := { Product.default with impDelay := 3 } } : State);
      (match exec (.ldsr 1 5) (s.writeReg 1 0x10000) with
        | .next t => (t.pswIMP, s.pswIMP, t.impInForce, t.impLag) == (true, false, false, 3)
        | _ => false) = true) := by decide

theorem witness_LdsrWritesControlRegisters :
    let s := setSys (fun y => { y with bsel := 0x1001 }) start
    let u := setSys (fun y => { y with bsel := 0x10 }) start
    Inv s ∧ s.pswNPV = false ∧ resolve s.sys.bsel 0 = some .mpm ∧ resolve s.sys.bsel 1 = some .mpc ∧
      s.product.protectionPresent = true ∧ Inv u ∧ u.pswNPV = false ∧ resolve u.sys.bsel 0 = some .swCtl :=
  ⟨{ inv_start with sys := { inv_start.sys with } }, rfl, rfl, rfl, rfl, { inv_start with sys := { inv_start.sys with } }, rfl, rfl⟩

/-- CTBP, an unprotected number; EIPC and a reserved number, which are blocked; VSECR at 0 and at 255. -/
theorem witness_LdsrBlockedAndRecorded :
    untrusted.pswNPV = true ∧ resolve untrusted.sys.bsel 20 = some .ctbp ∧ resolve untrusted.sys.bsel 0 = some .eipc ∧
      resolve untrusted.sys.bsel 6 = none ∧ untrusted.sys.vsecr = 0 ∧
      (setSys (fun y => { y with vsecr := 255 }) untrusted).sys.vsecr = 255 := by decide

theorem witness_StsrReadsRegister :
    resolve start.sys.bsel 31 = some .bsel ∧ SysReg.bsel ≠ .dir ∧ resolve start.sys.bsel 6 = none ∧
      resolve start.sys.bsel 21 = some .dir := by decide

/-- The table halfword at the two ends of the permitted area, and at the platform, with and without an error. -/
theorem witness_TableTransfers :
    (let s := setSys (fun y => { y with ctbp := 0x1000 }) guarded;
      0x100E = s.sys.ctbp + BitVec.ofNat 32 (2 * (7 : BitVec 6).toNat) ∧ Permitted s 0x100E 2 .table false ∧
        Permitted s 0x1000 2 .table false) ∧
    (let s := guarded.writeReg 1 6;
      0x100E = s.pc + 2 + BitVec.ofNat 32 (2 * (s.readReg 1).toNat) ∧ Permitted s 0x100E 2 .table false) ∧
    (let s := device [⟨0, some (.mep 0)⟩] ((setSys (fun y => { y with ctbp := 0x1000 }) guarded).writeReg 1 3);
      0x1008 = s.sys.ctbp + BitVec.ofNat 32 (2 * (4 : BitVec 6).toNat) ∧
        0x1008 = s.pc + 2 + BitVec.ofNat 32 (2 * (s.readReg 1).toNat) ∧ Permitted s 0x1008 2 .table false ∧
        s.busError 0x1008 2 = some (.mep 0) ∧ (device [] s).busError 0x1008 2 = none) := by
  unfold Permitted; decide

theorem witness_CompareAndExchange :
    let s := (guarded.writeReg 1 0x100F).writeReg 3 0x1000
    (0x100C : Word) = s.readReg 1 &&& 0xFFFFFFFC ∧ 0 = wordAt s 0x100C ∧ Permitted s 0x100C 4 .modify (decide ((1 : Reg) = 3)) ∧
      (0x1000 : Word) = s.readReg 3 &&& 0xFFFFFFFC ∧ Permitted s 0x1000 4 .modify (decide ((3 : Reg) = 3)) ∧
    (let d := device [⟨0, none⟩, ⟨0, some (.syserr 0)⟩] (guarded.writeReg 1 0x100B);
      (0x1008 : Word) = d.readReg 1 &&& 0xFFFFFFFC ∧ Permitted d 0x1008 4 .modify (decide ((1 : Reg) = 3)) ∧
        d.busError 0x1008 4 = none ∧ (d.afterRead 0x1008 4).busError 0x1008 4 = some (.syserr 0) ∧
        (device [⟨0, some (.mep 3)⟩] d).busError 0x1008 4 = some (.mep 3) ∧
        ((device [] d).afterRead 0x1008 4).busError 0x1008 4 = none) := by
  unfold Permitted; decide

/-! All instructions. -/

theorem witness_SaturationIsCumulative :
    (∃ t, exec (.add 1 2) (setPsw 0x10 start) = .next t) ∧ isReturn (.add 1 2) = false ∧ (setPsw 0x10 start).flagSAT = true ∧
      (∃ t, exec (.ldsr 1 0) start = .next t) ∧ resolve start.sys.bsel 0 ≠ some .psw ∧ isSaturated (.ldsr 1 0) = false :=
  ⟨⟨_, rfl⟩, rfl, rfl, ⟨_, rfl⟩, by decide, rfl⟩

theorem witness_UntrustedStateCannotLeave :
    untrusted.pswNPV = true ∧ isReturn (.ldsr 1 5) = false ∧ isSoftwareException (.ldsr 1 5) = false ∧
      ∃ t, exec (.ldsr 1 5) untrusted = .next t := ⟨rfl, rfl, rfl, _, rfl⟩

/-- A store to the last byte of the permitted area changes it. -/
theorem witness_MemoryChangesNeedWritePermission :
    let s := ((setPsw 0x00020000 (setSys (fun _ => guarded.sys) (code 32 0x100F0F40)))).writeReg 1 0xAB
    s.pswDMP = true ∧ s.read8 0x100F = 0 ∧ (after s fun t => t.read8 0x100F) = some 0xAB := by decide

/-- A byte just outside the permitted area. -/
theorem witness_UnreadableBytesDoNotInfluence :
    guarded.pswDMP = true ∧ (∀ v, Instr.ldB 0x1000 0 5 ≠ .syscall v) ∧
      (¬∃ n : Fin 4, AreaCovers guarded n (0x1010 : Word).toNat (0x1010 : Word).toNat ∧ AreaGrants guarded n .r) ∧
      ∃ t, exec (.ldB 0x1000 0 5) guarded = .next t := by
  refine ⟨rfl, fun v h => Instr.noConfusion h, ?_, _, rfl⟩
  rintro ⟨n, ⟨h1, h2, h3, h4⟩, h5⟩
  revert h1 h4; revert n; simp only [AreaGrants, areaHigh]; decide

theorem witness_ProtectionInactive :
    (Inv start ∧ start.aue = false ∧ start.mpe = false) ∧ Inv unprotected ∧ unprotected.product.protectionPresent = false ∧
      (resolve start.sys.bsel 0 = some .eipc ∧ SysReg.eipc.protectionGroup = false ∧
        SysReg.eipc ∉ [SysReg.psw, .mpm, .mpc, .swCtl]) ∧ resolve start.sys.bsel 5 = some .psw ∧
      resolve 0x1001 0 = some .mpm ∧ resolve 0x1001 1 = some .mpc ∧ resolve 0x10 0 = some .swCtl ∧
      SysReg.mpm.protectionGroup = true :=
  ⟨⟨inv_start, rfl, rfl⟩, inv_unprotected, rfl, by decide⟩

end Sys2Proof.Tests
end

section
/-! # The condition codes (R13)

R13 sets each condition beside its opposite, whose code has bit 3 set. That pairing is one lemma; with it, a row of the table's
second half follows from the flags that its first half tests. -/

namespace Sys2Proof.Conditions

open Sys2Proof Sys2Proof.Machine Sys2Proof.Laws

/-- Setting bit 3 of a code negates its condition; T, whose code with bit 3 set is SA, is the exception. -/
theorem cond_condOf_add_eight (s : State) (b : BitVec 4) (hb : b < 8) (hT : condOf b ≠ .t) :
    s.cond (condOf (b + 8)) = !s.cond (condOf b) := by
  obtain ⟨cc, rfl⟩ : ∃ cc, condBits cc = b := ⟨condOf b, condBits_condOf b⟩
  rw [condOf_condBits] at hT ⊢
  cases cc with
  | v | c | z | nh | n | lt | le => rfl
  | t => exact absurd rfl hT
  | nv | nc | nz | h | p | sa | ge | gt => exact absurd hb (by decide)

/-- The same as a row of the table: the opposite condition holds exactly when the condition does not. -/
theorem cond_opposite_iff (s : State) (b : BitVec 4) (hb : b < 8) (hT : condOf b ≠ .t) :
    s.cond (condOf (b + 8)) = true ↔ s.cond (condOf b) = false := by
  rw [cond_condOf_add_eight s b hb hT, Bool.not_eq_true']

/-! ## The conditions on more than one flag -/

theorem cond_nh (s : State) : s.cond .nh = (s.flagCY || s.flagZ) := rfl

theorem cond_le (s : State) : s.cond .le = (s.cond .lt || s.flagZ) := rfl

theorem cond_lt_iff (s : State) : s.cond .lt = true ↔ s.flagS ≠ s.flagOV := bne_iff_ne

theorem not_cond_lt_iff (s : State) : s.cond .lt = false ↔ s.flagS = s.flagOV := by
  rw [← Bool.not_eq_true, cond_lt_iff, Decidable.not_not]

/-- Settles O32: the first half of the table tests the flags as the model's equations say, and each row of the second half is
the opposite of its neighbour. -/
theorem conditionCodeTable : Obligations.ConditionCodeTable := by
  intro s
  refine ⟨Iff.rfl, ?nv, Iff.rfl, ?nc, Iff.rfl, ?nz, ?nh, ?h, Iff.rfl, ?p, rfl, Iff.rfl, ?lt, ?ge, ?le, ?gt⟩
  case nv => exact cond_opposite_iff s (condBits .v) (by decide) (by decide)
  case nc => exact cond_opposite_iff s (condBits .c) (by decide) (by decide)
  case nz => exact cond_opposite_iff s (condBits .z) (by decide) (by decide)
  case p => exact cond_opposite_iff s (condBits .n) (by decide) (by decide)
  case nh => exact Bool.or_eq_true_iff ..
  case h =>
    refine (cond_opposite_iff s (condBits .nh) (by decide) (by decide)).trans ?_
    rw [condOf_condBits, cond_nh, Bool.or_eq_false_iff]
  case lt => exact cond_lt_iff s
  case ge => exact (cond_opposite_iff s (condBits .lt) (by decide) (by decide)).trans (not_cond_lt_iff s)
  case le =>
    change s.cond .le = true ↔ _
    rw [cond_le, Bool.or_eq_true_iff, cond_lt_iff]
  case gt =>
    refine (cond_opposite_iff s (condBits .le) (by decide) (by decide)).trans ?_
    rw [condOf_condBits, cond_le, Bool.or_eq_false_iff, not_cond_lt_iff]

end Sys2Proof.Conditions
end

section
/-! # What one step can do (R511, R513)

One inversion of the step function: a step that answers a state is one of the eight below, each with the condition that decides
for it. A statement about every step is then a statement about these. -/

namespace Sys2Proof.Steps

open Sys2Proof Sys2Proof.Machine Sys2Proof.Laws Sys2Proof.Safety

/-- The steps of R513 from s, in their order. -/
inductive StepTo (s : State) : State → Prop
  | reset (h : s.sample.reset = true) : StepTo s s.popSample.resetFrom
  | wait (h : s.halted = true) (hw : wakes s.sample = false) : StepTo s s.popSample
  | accept (c : Cause) (h : (awake s).accepted s.sample = some c) : StepTo s ((awake s).take c)
  | violation (h : (awake s).fetchViolates = true) : StepTo s (awake s).fetchDone.takeMip
  | fetchError (e : AccessError) (h : (awake s).fetchError s.sample.mep = some e) :
      StepTo s ((awake s).fetchDone.takeError e)
  | coprocessor (k : Fin 8) (h : coprocCode s.product.coproc (awake s).code = some k) :
      StepTo s ((awake s).fetchDone.tickImp.take ((awake s).fetchDone.tickImp.ucpopCause k))
  | reserved (h : (awake s).instrAt = none) :
      StepTo s ((awake s).fetchDone.tickImp.take (awake s).fetchDone.tickImp.rieCause)
  | run (i : Instr) (t : State) (h : (awake s).instrAt = some i) (ht : exec i (awake s).fetchDone.tickImp = .next t) :
      StepTo s t

/-- Steps 8 and 9 of R513. -/
theorem stepTo_of_runDecoded {s t : State} (h : (awake s).runDecoded (awake s).fetchDone.tickImp = .next t) :
    StepTo s t := by
  unfold State.runDecoded at h
  split at h
  case h_1 k hk => cases h; exact .coprocessor k hk
  case h_2 =>
    split at h
    case h_1 i hi => exact .run i t hi h
    case h_2 hi => cases h; exact .reserved hi

/-- Steps 3 to 9 of R513. -/
theorem stepTo_of_runStep {s t : State} (h : (awake s).runStep s.sample = .next t) : StepTo s t := by
  unfold State.runStep State.runInstruction at h
  split at h
  case h_1 c hc => cases h; exact .accept c hc
  case h_2 =>
    split at h
    case isTrue hv => cases h; exact .violation hv
    case isFalse =>
      split at h
      case h_1 e he => cases h; exact .fetchError e he
      case h_2 => exact stepTo_of_runDecoded h

/-- Every step is one of those that R513 orders. -/
theorem stepTo_of_step {s t : State} (h : step s = .next t) : StepTo s t := by
  change s.popSample.cycleWith s.sample = .next t at h
  unfold State.cycleWith at h
  split at h
  case isTrue hr => cases h; exact .reset hr
  case isFalse =>
    split at h
    case isTrue hw =>
      obtain ⟨hh, hw⟩ := Bool.and_eq_true_iff.mp hw
      cases h; exact .wait hh (by simpa using hw)
    case isFalse => exact stepTo_of_runStep h

end Sys2Proof.Steps
end

section
/-! # The program counter (R24)

Every instruction and every exception ends with a write of the PC, and every such write goes through pcmask. So the state
after a step has a masked PC whatever the PC was before; only a step that waits in HALT mode keeps the old one. -/

namespace Sys2Proof.ProgramCounter

open Sys2Proof Sys2Proof.Machine Sys2Proof.Laws Sys2Proof.Safety Sys2Proof.Steps

/-! ## Masked values -/

/-- The PC is a value of pcmask. -/
def PcMasked (s : State) : Prop := pcmask s.pc = s.pc

theorem pcmask_bit_zero (v : Word) : (pcmask v).getLsbD 0 = false := by rw [pcmask_bit]; rfl

/-- A masked value is even. -/
theorem even_of_masked {v : Word} (h : pcmask v = v) : v.toNat % 2 = 0 := by
  have h0 : v.getLsbD 0 = false := by rw [← h, pcmask_bit_zero]
  rw [BitVec.getLsbD, Nat.testBit_zero] at h0
  simpa using h0

/-- A masked value lies in the 64 MB space. -/
theorem inSpace_of_masked {v : Word} (h : pcmask v = v) : inSpace v = true := by
  rw [← h, inSpace, sext26_pcmask, beq_self_eq_true]

/-- The values that R24 leaves for the PC. -/
theorem range_of_masked {v : Word} (h : pcmask v = v) :
    v.toNat ≤ 0x01FFFFFE ∨ (0xFE000000 ≤ v.toNat ∧ v.toNat ≤ 0xFFFFFFFE) := by
  have hev := even_of_masked h
  have hsp := (inSpace_iff v).mp (inSpace_of_masked h)
  have hlt := v.isLt
  omega

/-! ## The operations that write the PC -/

theorem pcMasked_setPc (s : State) (v : Word) : PcMasked (s.setPc v) := pcmask_pcmask v

theorem pcMasked_advance (s : State) (n : Nat) : PcMasked (s.advance n) := pcmask_pcmask _

theorem pcMasked_take (s : State) (c : Cause) : PcMasked (s.take c) := pcmask_pcmask _

theorem pcMasked_restore (s : State) (ret v : Word) : PcMasked (s.restore ret v) := pcmask_pcmask _

theorem pcMasked_resetFrom (s : State) : PcMasked s.resetFrom := pcmask_pcmask _

/-! ## Data accesses: MDP, the platform's error, or the rest of the instruction -/

theorem pcMasked_access {s d : State} (acc : Access) (h : PcMasked d) : PcMasked (s.access acc d) := by
  unfold State.access
  split
  · exact pcMasked_take ..
  · exact h

theorem pcMasked_reading {s : State} {a : Word} {n : Nat} {rest : State → State} (h : ∀ u, PcMasked (rest u)) :
    PcMasked (s.reading a n rest) := by
  unfold State.reading
  split
  · exact pcMasked_take ..
  · exact h _

theorem pcMasked_writing {s : State} {a v : Word} {n : Nat} {rest : State → State} (h : ∀ u, PcMasked (rest u)) :
    PcMasked (s.writing a n v rest) := by
  unfold State.writing
  split
  · exact pcMasked_take ..
  · exact h _

theorem pcMasked_modifyBit (s : State) (op : BitOp) (a : Word) (k len : Nat) : PcMasked (s.modifyBit op a k len) :=
  pcMasked_reading fun _ => pcMasked_writing fun _ => pcMasked_advance ..

theorem pcMasked_readBit (s : State) (a : Word) (k len : Nat) : PcMasked (s.readBit a k len) :=
  pcMasked_reading fun _ => pcMasked_advance ..

theorem pcMasked_finish (run : StackRun) {rest : State → Word → State} (h : ∀ u a, PcMasked (rest u a)) :
    PcMasked (run.finish rest) := by
  unfold StackRun.finish
  split
  · exact pcMasked_take ..
  · exact pcMasked_take ..
  · exact h ..

/-! ## Every instruction -/

/-- If the result is a state, its PC is masked. -/
def EndsMasked (r : Result) : Prop := ∀ t, r = .next t → PcMasked t

theorem endsMasked_next {t : State} (h : PcMasked t) : EndsMasked (.next t) := by
  rintro _ ⟨⟩; exact h

/-- Whatever the PC was, an instruction leaves a masked one: it goes on past itself, branches, takes an exception or returns. -/
theorem endsMasked_exec (i : Instr) (s : State) : EndsMasked (exec i s) := by
  cases i with
  | nop | synce | syncm | syncp | di | ei | ldsr | stsr | mov | movImm5 | movImm32 | movea | movhi | add | addImm5 | addi
  | adf | sub | subr | sbf | cmp | cmpImm5 | satadd | sataddImm5 | satadd3 | satsub | satsub3 | satsubi | satsubr
  | and | andi | or | ori | xor | xori | not | tst | shl | shlImm5 | shl3 | shr | shrImm5 | shr3 | sar | sarImm5 | sar3
  | mul | mulImm9 | mulu | muluImm9 | mulh | mulhImm5 | mulhi | mac | macu
  | div | divu | divq | divqu | divh | divh3 | divhu
  | bsw | bsh | hsw | hsh | sch0l | sch0r | sch1l | sch1r | sxb | sxh | zxb | zxh | setf | sasf | cmov | cmovImm5 =>
    exact endsMasked_next (pcMasked_advance ..)
  | halt => exact endsMasked_next (pcMasked_advance s 4)
  | bcond cc d =>
    refine endsMasked_next ?_
    split
    · exact pcMasked_setPc ..
    · exact pcMasked_advance ..
  | jmp | jmpDisp32 | jrDisp22 | jrDisp32 | jarlDisp22 | jarlDisp32 => exact endsMasked_next (pcMasked_setPc ..)
  | rie | rieImm | fetrap | trap => exact endsMasked_next (pcMasked_take ..)
  | syscall => exact endsMasked_next (pcMasked_reading fun _ => pcMasked_take ..)
  | ctret | eiret | feret => exact endsMasked_next (pcMasked_restore ..)
  | reti =>
    refine endsMasked_next ?_
    split <;> exact pcMasked_restore ..
  | ldB | ldBu | ldH | ldHu | ldW | ldBDisp23 | ldBuDisp23 | ldHDisp23 | ldHuDisp23 | ldWDisp23
  | sldB | sldBu | sldH | sldHu | sldW =>
    exact endsMasked_next (pcMasked_access _ (pcMasked_reading fun _ => pcMasked_advance ..))
  | stB | stH | stW | stBDisp23 | stHDisp23 | stWDisp23 | sstB | sstH | sstW =>
    exact endsMasked_next (pcMasked_access _ (pcMasked_writing fun _ => pcMasked_advance ..))
  | set1 | set1Reg | not1 | not1Reg | clr1 | clr1Reg => exact endsMasked_next (pcMasked_access _ (pcMasked_modifyBit ..))
  | tst1 | tst1Reg => exact endsMasked_next (pcMasked_access _ (pcMasked_readBit ..))
  | caxi =>
    exact endsMasked_next (pcMasked_access _
      (pcMasked_reading fun _ => pcMasked_writing fun _ => pcMasked_advance ..))
  | callt | switch => exact endsMasked_next (pcMasked_access _ (pcMasked_reading fun _ => pcMasked_setPc ..))
  | prepare | prepareSp | prepareImm16 | prepareImm16Hi | prepareImm32 | dispose =>
    exact endsMasked_next (pcMasked_finish _ fun _ _ => pcMasked_advance ..)
  | disposeJmp => exact endsMasked_next (pcMasked_finish _ fun _ _ => pcMasked_setPc ..)

/-! ## Every step -/

/-- Every step keeps the PC masked; only waiting in HALT mode needs that it was. -/
theorem step_keeps_pcMasked {s t : State} (hs : PcMasked s) (h : step s = .next t) : PcMasked t := by
  cases stepTo_of_step h with
  | reset => exact pcMasked_resetFrom _
  | wait => exact hs
  | accept | violation | fetchError | coprocessor | reserved => exact pcMasked_take ..
  | run i _ _ ht => exact endsMasked_exec i _ t ht

/-- Settles O14: the bits of pcmask, then the step lemma and the range of a masked value. -/
theorem pcStaysInInstructionSpace : Obligations.PcStaysInInstructionSpace := by
  refine ⟨fun v => ⟨pcmask_bit_zero v, fun k hk h0 => ?_⟩, fun s t hs h => ?_⟩
  · rw [pcmask_bit, decide_eq_true ⟨hk, by omega⟩, Bool.true_and, Nat.min_def]
  · have ht : PcMasked t := step_keeps_pcMasked hs h
    exact ⟨even_of_masked ht, range_of_masked ht⟩

end Sys2Proof.ProgramCounter
end

section
/-! # The addresses of the loads and stores (R236)

Each address is a base register plus an extended displacement, so each form is one law about the extension. A displacement that
is encoded whole is its own number; one that is encoded without its low bits is the even multiple that `sext_even` and
`zext_even` give. -/

namespace Sys2Proof.DataAddresses

open Sys2Proof Sys2Proof.Machine Sys2Proof.Laws

/-- Settles O16: an offset law per displacement, added to the base register. -/
theorem addressForms : Obligations.AddressForms := by
  intro s R
  have based {x y : Word} (h : x = y) : s.readReg R + x = s.readReg R + y := congrArg _ h
  have onEp {x y : Word} (h : x = y) : s.readReg epReg + x = s.readReg epReg + y := congrArg _ h
  refine ⟨?ld16, ?ld15, ?ld23, ?ld22, ?ep7, ?ep4, ?ep5, ?ep8, ?ep8w⟩
  case ld16 | ld23 => exact fun _ => based rfl
  case ld15 | ld22 => exact fun d => based (sext_even (by omega) (by omega) d)
  case ep7 | ep4 => exact fun d => onEp (BitVec.ofNat_toNat 32 d).symm
  case ep5 | ep8 | ep8w => exact fun d => onEp (zext_even d)

end Sys2Proof.DataAddresses
end

section
/-! # Register lists (R452)

A list is read through the table `listTable`: a register is listed when the bit of its row is set, and leaving rows out keeps
the order of the others. -/

namespace Sys2Proof.RegisterLists

open Sys2Proof Sys2Proof.Machine

/-- The rows of `listTable` in the order of R452: list12 bits 31-21 from the highest, then bit 0. -/
def list12Rows : List (Reg × Nat) :=
  [(24, 11), (25, 10), (26, 9), (27, 8), (20, 7), (21, 6), (22, 5), (23, 4), (28, 3), (29, 2), (31, 1), (30, 0)]

theorem mem_listTable_iff_mem_list12Rows (p : Reg × Nat) : p ∈ listTable ↔ p ∈ list12Rows :=
  have perm : listTable.Perm list12Rows := by decide
  perm.mem_iff

theorem mem_ascending_iff (l : RegList) (r : Reg) :
    r ∈ ascending l ↔ ∃ k, (r, k) ∈ list12Rows ∧ l.getLsbD k = true := by
  simp [ascending, mem_listTable_iff_mem_list12Rows]

theorem ascending_sorted (l : RegList) : (ascending l).Pairwise (fun a b => a.toNat < b.toNat) := by
  have rows : (listTable.map Prod.fst).Pairwise (fun a b => a.toNat < b.toNat) := by decide
  have kept : (ascending l).Sublist (listTable.map Prod.fst) := List.filter_sublist.map _
  exact rows.sublist kept

theorem fList_bit_succ (h1 h2 : Half) {k : Nat} (hk : k < 11) :
    (fList h1 h2).getLsbD (k + 1) = h2.getLsbD (k + 5) := by
  unfold fList
  rw [BitVec.getLsbD_append, if_neg (by omega), BitVec.getLsbD_extractLsb', decide_eq_true (by omega), Bool.true_and,
    Nat.add_sub_cancel, Nat.add_comm]

theorem fList_bit_zero (h1 h2 : Half) : (fList h1 h2).getLsbD 0 = h1.getLsbD 0 := by
  unfold fList
  rw [BitVec.getLsbD_append, if_pos (by omega), BitVec.getLsbD_extractLsb', decide_eq_true (by omega), Bool.true_and]

/-- Settles O44: each listed register by its row, the order from the table's, and the two pieces that `fList` joins. -/
theorem registerListNamesRegisters : Obligations.RegisterListNamesRegisters := by
  refine ⟨fun l r => ?_, fun l => ⟨ascending_sorted l, rfl⟩,
    fun h1 h2 => ⟨fun _ => fList_bit_succ h1 h2, fList_bit_zero h1 h2⟩⟩
  rw [mem_ascending_iff]
  simp only [list12Rows, List.mem_cons, List.not_mem_nil, or_false, Prod.mk.injEq, or_and_right, exists_or, and_assoc,
    exists_and_left, exists_eq_left]

end Sys2Proof.RegisterLists
end

section
/-! # The cause that MDP writes to VMECR (R552)

The kind of an access and its base register fix every bit but VMMS, and VMMS shows the misalignment of loads and stores alone
(R70). So the table of R552 is one value per kind, and two laws that say when VMMS is set in it. -/

namespace Sys2Proof.ViolationCauses

open Sys2Proof Sys2Proof.Machine

/-- VMRMW, VMS, VMW and VMR of an access by its kind and whether it is sp-relative: the rows of R552 without VMMS. -/
def kindCause : AccessKind → Bool → Word
  | .load, sp | .table, sp | .bitTest, sp | .pop, sp => if sp then 0x14 else 0x04
  | .store, sp | .push, sp => if sp then 0x18 else 0x08
  | .modify, sp => if sp then 0x34 else 0x24

theorem misaligned_eq_false_iff (acc : Access) : acc.misaligned = false ↔ acc.addr.toNat % acc.size = 0 :=
  decide_eq_false_iff_not.trans Decidable.not_not

theorem misaligned_eq_true_iff (acc : Access) : acc.misaligned = true ↔ acc.addr.toNat % acc.size ≠ 0 :=
  decide_eq_true_iff

/-- The bits that the model sets one by one, joined. -/
theorem vmecr_eq_vmms_or_kindCause (acc : Access) :
    acc.vmecr = (if acc.misaligned && (acc.kind = .load || acc.kind = .store) then 0x40 else 0) |||
      kindCause acc.kind acc.spRel := by
  obtain ⟨addr, size, kind, spRel⟩ := acc
  unfold Access.vmecr
  rw [BitVec.or_assoc, BitVec.or_assoc]
  congr 1
  cases kind <;> cases spRel <;> simp [kindCause]

theorem vmecr_of_aligned {acc : Access} (h : acc.addr.toNat % acc.size = 0) :
    acc.vmecr = kindCause acc.kind acc.spRel := by
  rw [vmecr_eq_vmms_or_kindCause, (misaligned_eq_false_iff acc).mpr h]
  exact BitVec.zero_or

/-- Table reads, bit instructions, CAXI and the stack frame never report misalignment. -/
theorem vmecr_of_not_load_store {acc : Access} (hl : acc.kind ≠ .load) (hs : acc.kind ≠ .store) :
    acc.vmecr = kindCause acc.kind acc.spRel := by
  rw [vmecr_eq_vmms_or_kindCause, decide_eq_false hl, decide_eq_false hs, Bool.or_self, Bool.and_false]
  exact BitVec.zero_or

theorem vmecr_of_misaligned {acc : Access} (h : acc.addr.toNat % acc.size ≠ 0)
    (hk : acc.kind = .load ∨ acc.kind = .store) : acc.vmecr = 0x40 ||| kindCause acc.kind acc.spRel := by
  have reported : (acc.kind = .load || acc.kind = .store : Bool) = true := by simpa using hk
  rw [vmecr_eq_vmms_or_kindCause, (misaligned_eq_true_iff acc).mpr h, reported]
  rfl

/-- Settles O21: each row of R552 is the value of its kind, with VMMS for the misaligned loads and stores. -/
theorem violationCauseTable : Obligations.ViolationCauseTable := by
  intro a n sp
  have loadVmms : ∀ sp, 0x40 ||| kindCause .load sp = if sp then 0x54 else 0x44 := by decide
  have storeVmms : ∀ sp, 0x40 ||| kindCause .store sp = if sp then 0x58 else 0x48 := by decide
  refine ⟨?load, ?store, ?misalignedLoad, ?misalignedStore, ?table, ?test, ?modify, ?push, ?pop⟩
  case load => exact vmecr_of_aligned (acc := loadAccess a n sp)
  case store => exact vmecr_of_aligned (acc := storeAccess a n sp)
  case misalignedLoad => exact fun h => (vmecr_of_misaligned h (.inl rfl)).trans (loadVmms sp)
  case misalignedStore => exact fun h => (vmecr_of_misaligned h (.inr rfl)).trans (storeVmms sp)
  case table | test | modify | push | pop => exact vmecr_of_not_load_store nofun nofun

end Sys2Proof.ViolationCauses
end

section
/-! # The arithmetic, logic and data instructions

Each of these instructions is one shared operation applied to its operands. What an operation gives is said once in the laws; an
instruction adds which operands it takes, and how its immediate reads as a number. -/

namespace Sys2Proof.Computations

open Sys2Proof Sys2Proof.Machine Sys2Proof.Laws Sys2Proof.Safety

/-! ## Moves and extensions -/

/-- An instruction that writes one register and goes on sets that register, however its value is spelled. -/
theorem setsReg_of_eq {s : State} {r : Reg} {v w : Word} (n : Nat) (h : v = w) :
    SetsReg r w n s ((s.writeReg r v).advance n) := h ▸ setsReg_writeReg s r v n

theorem upper16_eq (i : Half) : upper16 i = BitVec.ofNat 32 (65536 * i.toNat) := by
  apply BitVec.eq_of_toNat_eq
  have lt := i.isLt
  rw [upper16, BitVec.toNat_append, BitVec.toNat_ofNat, BitVec.toNat_ofNat, Nat.zero_mod, Nat.or_zero, Nat.shiftLeft_eq]
  omega

theorem zextByte_eq (v : Word) : (byteOf v 0).setWidth 32 = BitVec.ofNat 32 (v.toNat % 256) := by
  apply BitVec.eq_of_toNat_eq
  simp [byteOf, BitVec.extractLsb'_toNat]

theorem zextHalf_eq (v : Word) : (lowHalf v).setWidth 32 = BitVec.ofNat 32 (v.toNat % 65536) := by
  apply BitVec.eq_of_toNat_eq
  simp [lowHalf, BitVec.extractLsb'_toNat]

/-- Settles O25: each value by its own reading; imm5, imm16 and the signed extensions read as numbers by definition. -/
theorem movesAndExtensions : Obligations.MovesAndExtensions := by
  intro s R r
  refine ⟨?mov, ?movImm5, ?movImm32, ?movea, ?movhi, ?sxb, ?sxh, ?zxb, ?zxh⟩
  case mov | sxb | sxh => exact ⟨_, rfl, setsReg_of_eq _ rfl⟩
  case movImm5 | movImm32 | movea => exact fun _ => ⟨_, rfl, setsReg_of_eq _ rfl⟩
  case movhi => exact fun i => ⟨_, rfl, setsReg_of_eq _ (by rw [upper16_eq])⟩
  case zxb => exact ⟨_, rfl, setsReg_of_eq _ (zextByte_eq _)⟩
  case zxh => exact ⟨_, rfl, setsReg_of_eq _ (zextHalf_eq _)⟩

/-! ## Sums and differences -/

/-- Settles O26: each form is addInto on its operands; a condition adds 1 as the carry that comes in. -/
theorem additionsGiveSumAndFlags : Obligations.AdditionsGiveSumAndFlags := fun s _ r w =>
  ⟨⟨_, rfl, sumInto_addInto s r _ _ false 2⟩, fun _ => ⟨_, rfl, sumInto_addInto s r _ _ false 2⟩,
    fun _ => ⟨_, rfl, sumInto_addInto s r _ _ false 4⟩, fun cc => ⟨_, rfl, sumInto_addInto s w _ _ (s.cond cc) 4⟩⟩

/-- Settles O27: each form is subInto on its operands, and a comparison its flags alone. -/
theorem subtractionsGiveDifferenceAndFlags : Obligations.SubtractionsGiveDifferenceAndFlags := fun s _ r w =>
  ⟨⟨_, rfl, differenceInto_subInto s r _ _ false 2⟩, ⟨_, rfl, differenceInto_subInto s r _ _ false 2⟩,
    fun cc => ⟨_, rfl, differenceInto_subInto s w _ _ (s.cond cc) 4⟩, ⟨_, rfl, compare_withFlags s _ _ 2⟩,
    fun _ => ⟨_, rfl, compare_withFlags s _ _ 2⟩⟩

theorem toInt_sext16 (i : Half) : (sext16 i).toInt = i.toInt :=
  BitVec.toInt_signExtend_of_le (by omega)

/-- Settles O28: each form saturates its operands; an extended immediate keeps its value as a signed number. -/
theorem saturatedOperations : Obligations.SaturatedOperations := by
  intro s R r w
  refine ⟨?add, ?addImm5, ?add3, ?sub, ?sub3, ?subi, ?subr⟩
  case add | add3 => exact ⟨_, rfl, saturatesInto_satAdd s _ _ _ _⟩
  case sub | sub3 | subr => exact ⟨_, rfl, saturatesInto_satSub s _ _ _ _⟩
  case addImm5 =>
    intro i
    have sum := saturatesInto_satAdd s r (s.readReg r) (sext5 i) 2
    rw [toInt5] at sum
    exact ⟨_, rfl, sum⟩
  case subi =>
    intro i
    have difference := saturatesInto_satSub s r (s.readReg R) (sext16 i) 4
    rw [toInt_sext16] at difference
    exact ⟨_, rfl, difference⟩

/-! ## Bitwise results, shifts, swaps, conditional data -/

/-- Settles O29: each form is logicInto, TST its flags alone; zero extension keeps the number of imm16. -/
theorem logicalOperations : Obligations.LogicalOperations := by
  intro s R r
  refine ⟨?and, ?or, ?xor, ?not, ?tst, ?andi, ?ori, ?xori⟩
  case and | or | xor | not => exact ⟨_, rfl, logicInto_logicInto s r _ 2⟩
  case tst => exact ⟨_, rfl, logicInto_flagsOnly s _ 2⟩
  case andi | ori | xori =>
    intro i
    rw [show BitVec.ofNat 32 i.toNat = zext16 i from BitVec.ofNat_toNat 32 i]
    exact ⟨_, rfl, logicInto_logicInto s r _ 4⟩

/-- Settles O30: a register count is reg1 modulo 32, an immediate count its own number. -/
theorem shiftsMoveBits : Obligations.ShiftsMoveBits := by
  rintro s R r w i n _ rfl
  constructor
  case left =>
    rintro rfl
    rw [← shiftCount_eq]
    exact ⟨⟨_, rfl, shiftInto_shl s _ _ _ 4⟩, ⟨_, rfl, shiftInto_shl s _ _ _ 4⟩, ⟨_, rfl, shiftInto_shr s _ _ _ 4⟩,
      ⟨_, rfl, shiftInto_shr s _ _ _ 4⟩, ⟨_, rfl, shiftInto_sar s _ _ _ 4⟩, ⟨_, rfl, shiftInto_sar s _ _ _ 4⟩⟩
  case right =>
    rintro rfl
    exact ⟨⟨_, rfl, shiftInto_shl s _ _ _ 2⟩, ⟨_, rfl, shiftInto_shr s _ _ _ 2⟩, ⟨_, rfl, shiftInto_sar s _ _ _ 2⟩⟩

/-- Byte k of four bytes set one after the other. -/
theorem byteOf_append (b3 b2 b1 b0 : Byte) :
    byteOf (b3 ++ b2 ++ b1 ++ b0) 0 = b0 ∧ byteOf (b3 ++ b2 ++ b1 ++ b0) 1 = b1 ∧
      byteOf (b3 ++ b2 ++ b1 ++ b0) 2 = b2 ∧ byteOf (b3 ++ b2 ++ b1 ++ b0) 3 = b3 := by
  refine ⟨?_, ?_, ?_, ?_⟩ <;>
    · apply BitVec.eq_of_getLsbD_eq
      intro j hj
      simp [byteOf, hj]
      grind

theorem halves_append (h1 h0 : Half) : lowHalf (h1 ++ h0) = h0 ∧ highHalf (h1 ++ h0) = h1 := by
  refine ⟨?_, ?_⟩
  · exact BitVec.extractLsb'_append_eq_right
  · exact BitVec.extractLsb'_append_eq_left

theorem someByteZero_iff (v : Word) : someByteZero v = true ↔ ∃ k, k < 4 ∧ byteOf v k = 0 := by
  constructor
  · intro h
    obtain ((h | h) | h) | h : ((byteOf v 0 = 0 ∨ byteOf v 1 = 0) ∨ byteOf v 2 = 0) ∨ byteOf v 3 = 0 := by
      simpa [someByteZero] using h
    · exact ⟨0, by omega, h⟩
    · exact ⟨1, by omega, h⟩
    · exact ⟨2, by omega, h⟩
    · exact ⟨3, by omega, h⟩
  · rintro ⟨k, hk, h⟩
    obtain rfl | rfl | rfl | rfl : k = 0 ∨ k = 1 ∨ k = 2 ∨ k = 3 := by omega
    all_goals simp [someByteZero, h]

theorem someLowByteZero_iff (v : Word) : someLowByteZero v = true ↔ ∃ k, k < 2 ∧ byteOf v k = 0 := by
  constructor
  · intro h
    obtain h | h : byteOf v 0 = 0 ∨ byteOf v 1 = 0 := by simpa [someLowByteZero] using h
    · exact ⟨0, by omega, h⟩
    · exact ⟨1, by omega, h⟩
  · rintro ⟨k, hk, h⟩
    obtain rfl | rfl : k = 0 ∨ k = 1 := by omega
    all_goals simp [someLowByteZero, h]

theorem someHalfZero_iff (v : Word) : someHalfZero v = true ↔ lowHalf v = 0 ∨ highHalf v = 0 := by
  simp [someHalfZero]

/-- Settles O31: the bytes of each result, and each condition as a test of the result. -/
theorem swapsExchangeBytes : Obligations.SwapsExchangeBytes := by
  rintro s r w v rfl
  refine ⟨?bsw, ?bsh, ?hsw, ?hsh⟩
  case bsw =>
    obtain ⟨b0, b1, b2, b3⟩ := byteOf_append (byteOf (s.readReg r) 0) (byteOf (s.readReg r) 1) (byteOf (s.readReg r) 2)
      (byteOf (s.readReg r) 3)
    refine ⟨swapBytes (s.readReg r), _, fun k hk => ?_, rfl,
      swapInto_swapInto _ _ _ _ _ _ _ (someByteZero_iff _) beq_iff_eq⟩
    obtain rfl | rfl | rfl | rfl : k = 0 ∨ k = 1 ∨ k = 2 ∨ k = 3 := by omega
    · exact b0
    · exact b1
    · exact b2
    · exact b3
  case bsh =>
    obtain ⟨b0, b1, b2, b3⟩ := byteOf_append (byteOf (s.readReg r) 2) (byteOf (s.readReg r) 3) (byteOf (s.readReg r) 0)
      (byteOf (s.readReg r) 1)
    exact ⟨swapHalfBytes (s.readReg r), _, ⟨b0, b1, b2, b3⟩, rfl,
      swapInto_swapInto _ _ _ _ _ _ _ (someLowByteZero_iff _) beq_iff_eq⟩
  case hsw =>
    exact ⟨swapHalves (s.readReg r), _, halves_append _ _, rfl,
      swapInto_swapInto _ _ _ _ _ _ _ (someHalfZero_iff _) beq_iff_eq⟩
  case hsh => exact ⟨_, rfl, swapInto_swapInto _ _ _ _ _ _ _ beq_iff_eq beq_iff_eq⟩

theorem shiftLeft_one_or_bit (v : Word) (c : Bool) :
    v <<< 1 ||| (if c then 1 else 0) = v + v + (if c then 1 else 0) := by
  have twice : v + v = v <<< 1 := by
    apply BitVec.eq_of_toNat_eq
    simp [BitVec.toNat_shiftLeft, Nat.shiftLeft_eq]
    omega
  rw [twice]
  refine (BitVec.add_eq_or_of_and_eq_zero _ _ ?_).symm
  apply BitVec.eq_of_getLsbD_eq
  intro k hk
  cases c <;> simp
  omega

/-- Settles O33: each value by its condition; SASF shifts its bit in where twice the register leaves room. -/
theorem conditionalData : Obligations.ConditionalData := fun s cc _ r _ =>
  ⟨⟨_, rfl, setsReg_of_eq 4 rfl⟩, fun _ => ⟨_, rfl, setsReg_of_eq 4 rfl⟩, ⟨_, rfl, setsReg_of_eq 4 rfl⟩,
    ⟨_, rfl, setsReg_of_eq 4 (shiftLeft_one_or_bit (s.readReg r) (s.cond cc))⟩⟩

/-! ## Bit searches -/

theorem bitsUp_length (v : Word) : (bitsUp v).length = 32 := by simp [bitsUp]

/-- A search upwards looks at bit k - 1 at position k. -/
theorem searchInto_right (s : State) (w : Reg) (b : Bool) (v : Word) :
    SearchInto w b v (fun k => k - 1) s ((s.searchInto w (searchRight b v)).advance 4) :=
  searchInto_of s w b v (bitsUp v) _ (bitsUp_length v) fun n hn => by
    simp only [bitsUp, List.getElem_map, List.getElem_range, Nat.add_sub_cancel]

/-- A search downwards looks at bit 32 - k at position k. -/
theorem searchInto_left (s : State) (w : Reg) (b : Bool) (v : Word) :
    SearchInto w b v (fun k => 32 - k) s ((s.searchInto w (searchLeft b v)).advance 4) :=
  searchInto_of s w b v (bitsUp v).reverse _ (by rw [List.length_reverse, bitsUp_length]) fun n hn => by
    have position : 32 - 1 - n = 32 - (n + 1) := by omega
    simp only [bitsUp, List.getElem_reverse, List.length_map, List.length_range, List.getElem_map, List.getElem_range,
      position]

/-- Settles O34: two searches upwards, two downwards. -/
theorem bitSearches : Obligations.BitSearches := fun s _ w =>
  ⟨⟨_, rfl, searchInto_left s w _ _⟩, ⟨_, rfl, searchInto_right s w _ _⟩, ⟨_, rfl, searchInto_left s w _ _⟩,
    ⟨_, rfl, searchInto_right s w _ _⟩⟩

/-! ## Products -/

theorem toInt_sext9 (i : BitVec 9) : (sext9 i).toInt = i.toInt := BitVec.toInt_signExtend_of_le (by omega)

theorem toNat_zext9 (i : BitVec 9) : (zext9 i).toNat = i.toNat := BitVec.toNat_setWidth_of_le (by omega)

theorem toInt_sext5_half (i : BitVec 5) : (i.signExtend 16).toInt = i.toInt :=
  BitVec.toInt_signExtend_of_le (by omega)

/-- A 64-bit product in its two registers, known by its value as a signed number. -/
theorem signedProduct (s : State) (r w : Reg) {a b : Word} {e : Int} (h : a.toInt * b.toInt = e) :
    ∃ (hi lo : Word) (t : State), (hi ++ lo).toInt = e ∧
      Host.Outcome.next (φ := Fault) (ρ := Refusal) ((s.writeProduct (mulSigned a b) r w).advance 4) = .next t ∧
      ProductInto r w hi lo s t :=
  ⟨_, _, _, by rw [append_halves, mulSigned_toInt, h], rfl, productInto_write ..⟩

/-- The same for an unsigned product. -/
theorem unsignedProduct (s : State) (r w : Reg) {a b : Word} {e : Nat} (h : a.toNat * b.toNat = e) :
    ∃ (hi lo : Word) (t : State), (hi ++ lo).toNat = e ∧
      Host.Outcome.next (φ := Fault) (ρ := Refusal) ((s.writeProduct (mulUnsigned a b) r w).advance 4) = .next t ∧
      ProductInto r w hi lo s t :=
  ⟨_, _, _, by rw [append_halves, mulUnsigned_toNat, h], rfl, productInto_write ..⟩

/-- Settles O23: each form is a product of its operands; an extended immediate keeps its value. -/
theorem multiplicationsGiveProducts : Obligations.MultiplicationsGiveProducts := by
  intro s R r w
  refine ⟨?mul, ?mulImm9, ?mulu, ?muluImm9, ?mulh, ?mulhImm5, ?mulhi⟩
  case mul => exact signedProduct s r w rfl
  case mulImm9 => exact fun i => signedProduct s r w (by rw [toInt_sext9])
  case mulu => exact unsignedProduct s r w rfl
  case muluImm9 => exact fun i => unsignedProduct s r w (by rw [toNat_zext9])
  case mulh => exact ⟨_, _, mulHalf_toInt _ _, rfl, setsReg_writeReg ..⟩
  case mulhImm5 => exact fun i => ⟨_, _, by rw [mulHalf_toInt, toInt_sext5_half], rfl, setsReg_writeReg ..⟩
  case mulhi => exact fun i => ⟨_, _, mulHalf_toInt _ _, rfl, setsReg_writeReg ..⟩

/-- Settles O24: the sum of two 64-bit words is that of their numbers, modulo 2^64. -/
theorem multiplyAddGivesSum : Obligations.MultiplyAddGivesSum := by
  intro s R r w m
  constructor
  case left =>
    refine ⟨_, _, _, ?_, rfl, pairInto_write s _ m⟩
    rw [append_halves, BitVec.ofInt_add, BitVec.ofInt_toInt]
    rfl
  case right =>
    refine ⟨_, _, _, ?_, rfl, pairInto_write s _ m⟩
    rw [append_halves, BitVec.ofNat_add, BitVec.ofNat_toNat, BitVec.setWidth_eq]
    rfl

end Sys2Proof.Computations
end

section
/-! # Divisions (R390 to R399)

A division computes quotient, remainder and flags from numbers; where they go is the other half. So a three-operand form is a
`Division` and the fact that its results are those of the numbers it divides. -/

namespace Sys2Proof.Divisions

open Sys2Proof Sys2Proof.Machine Sys2Proof.Laws Sys2Proof.Safety

/-! ## A divisor that is not 0 -/

/-- Two registers receive the results of d, when its flags and results are those that the instruction promises. -/
theorem divideInto_gives (s : State) (d : Division) {r w : Reg} (hrw : r ≠ w) {P : Word → Word → State → Prop}
    (hP : ∀ t : State, t.flagOV = d.ov ∧ t.flagS = d.s ∧ t.flagZ = d.z → P d.quotient d.remainder t) :
    ∃ (t : State) (q m : Word),
      Host.Outcome.next (φ := Fault) (ρ := Refusal) ((s.divideInto d r w).advance 4) = .next t ∧ P q m t ∧
        t.readReg r = written r q ∧ t.readReg w = written w m ∧ DivideFrame [r, w] 4 s t := by
  obtain ⟨quotient, remainder, flags⟩ := divideInto_results s d r w hrw _ rfl
  exact ⟨_, _, _, rfl, hP _ flags, quotient, remainder, divideInto_frame s d r w⟩

/-- What a two-operand DIVH does, whatever its division gives. -/
theorem divh_gives (s : State) (d : Division) (r : Reg) :
    let t := (((s.withDivFlags d.ov d.s d.z).writeReg r d.quotient).useFree).advance 2
    t.readReg r = written r d.quotient ∧ (t.flagOV = d.ov ∧ t.flagS = d.s ∧ t.flagZ = d.z) ∧ DivideFrame [r] 2 s t := by
  have flags := withDivFlags_flags s d.ov d.s d.z
  have frame : Frame [r] [0, 1, 2] s ((s.withDivFlags d.ov d.s d.z).writeReg r d.quotient) :=
    frame_writeReg (frame_withFlags_keep (frame_refl ..) _ _ _ (by simp) (by simp) (by simp)) _ _ (by simp)
  obtain ⟨regs, psw, mem, sys, _, env⟩ := frame
  refine ⟨by simp, ?_, regs, psw, mem, sys, env, falls_advance _ _ _ (by simp [State.withDivFlags])⟩
  simpa [State.flagOV, State.flagS, State.flagZ] using flags

/-- Settles O35: the four forms divide the signed words, DIVH by a signed halfword. -/
theorem signedDivisions : Obligations.SignedDivisions := by
  rintro s R r w _ _ _ rfl rfl rfl
  have word := word_range (s.readReg r)
  have byWord (hb : (s.readReg R).toInt ≠ 0) := signedResults_of s.free _ _ word (word_range (s.readReg R)) hb
  have byHalf (hc : (lowHalf (s.readReg R)).toInt ≠ 0) := signedResults_of s.free _ _ word (half_range _) hc
  refine ⟨?div, ?divq, ?divh3, ?divh⟩
  case div | divq => exact fun hrw hb => divideInto_gives s (s.wordDivision R r) hrw (byWord hb)
  case divh3 => exact fun hrw hc => divideInto_gives s (s.halfDivision R r) hrw (byHalf hc)
  case divh =>
    intro hc
    obtain ⟨quotient, flags, frame⟩ := divh_gives s (s.halfDivision R r) r
    exact ⟨_, _, _, rfl, byHalf hc _ flags, quotient, frame⟩

theorem half_lt (v : Half) : v.toNat < 2 ^ 32 := by have := v.isLt; omega

/-- Settles O36: the three forms divide the unsigned words, DIVHU by an unsigned halfword. -/
theorem unsignedDivisions : Obligations.UnsignedDivisions := by
  rintro s R r w _ _ _ rfl rfl rfl hrw
  have word := (s.readReg r).isLt
  refine ⟨?divu, ?divqu, ?divhu⟩
  case divu | divqu =>
    exact fun hb => divideInto_gives s (s.wordDivisionU R r) hrw
      (unsignedResults_of s.free _ _ word (s.readReg R).isLt hb)
  case divhu =>
    exact fun hc => divideInto_gives s (s.halfDivisionU R r) hrw (unsignedResults_of s.free _ _ word (half_lt _) hc)

/-! ## A divisor of 0 -/

theorem divideSigned_zero_ov (n : Nat) (a : Int) : (divideSigned n a 0).ov = true := rfl

theorem divideUnsigned_zero_ov (n a : Nat) : (divideUnsigned n a 0).ov = true := rfl

/-- A division with OV = 1 into two registers. -/
theorem divideInto_overflows (s : State) (d : Division) {r w : Reg} (hrw : r ≠ w) (hov : d.ov = true) :
    ∃ t, Host.Outcome.next (φ := Fault) (ρ := Refusal) ((s.divideInto d r w).advance 4) = .next t ∧
      t.flagOV = true ∧ DivideFrame [r, w] 4 s t := by
  obtain ⟨_, _, ov, _⟩ := divideInto_results s d r w hrw _ rfl
  exact ⟨_, rfl, ov.trans hov, divideInto_frame s d r w⟩

/-- Settles O37: OV of a division by 0, and the frame that holds whatever a division gives. -/
theorem divisionByZeroSetsOverflow : Obligations.DivisionByZeroSetsOverflow := by
  intro s R r w hrw
  have signedWord (h : s.readReg R = 0) : (s.wordDivision R r).ov = true := by
    rw [State.wordDivision, h]; exact divideSigned_zero_ov ..
  have unsignedWord (h : s.readReg R = 0) : (s.wordDivisionU R r).ov = true := by
    rw [State.wordDivisionU, h]; exact divideUnsigned_zero_ov ..
  have signedHalf (h : lowHalf (s.readReg R) = 0) : (s.halfDivision R r).ov = true := by
    rw [State.halfDivision, h]; exact divideSigned_zero_ov ..
  have unsignedHalf (h : lowHalf (s.readReg R) = 0) : (s.halfDivisionU R r).ov = true := by
    rw [State.halfDivisionU, h]; exact divideUnsigned_zero_ov ..
  refine ⟨fun h i hi => ?words, fun h i hi => ?halves, fun h => ?divh⟩
  case words =>
    obtain rfl | rfl | rfl | rfl : i = .div R r w ∨ i = .divq R r w ∨ i = .divu R r w ∨ i = .divqu R r w := by
      simpa using hi
    · exact divideInto_overflows s _ hrw (signedWord h)
    · exact divideInto_overflows s _ hrw (signedWord h)
    · exact divideInto_overflows s _ hrw (unsignedWord h)
    · exact divideInto_overflows s _ hrw (unsignedWord h)
  case halves =>
    obtain rfl | rfl : i = .divh3 R r w ∨ i = .divhu R r w := by simpa using hi
    · exact divideInto_overflows s _ hrw (signedHalf h)
    · exact divideInto_overflows s _ hrw (unsignedHalf h)
  case divh =>
    obtain ⟨_, ⟨ov, _⟩, frame⟩ := divh_gives s (s.halfDivision R r) r
    exact ⟨_, rfl, ov.trans (signedHalf h), frame⟩

/-! ## Both results into one register -/

/-- The remainder word of a signed division is the remainder, in the overflow case too: there it is 0. -/
theorem divideSigned_remainder (n : Nat) {a b : Int} (ha : -2 ^ 31 ≤ a ∧ a ≤ 2 ^ 31 - 1)
    (hb : -2 ^ 31 ≤ b ∧ b ≤ 2 ^ 31 - 1) (h0 : b ≠ 0) : (divideSigned n a b).remainder.toInt = a.tmod b := by
  unfold divideSigned
  rw [if_neg h0]
  by_cases overflow : a = -2 ^ 31 ∧ b = -1
  · obtain ⟨rfl, rfl⟩ := overflow
    rfl
  · obtain ⟨_, _, low, high⟩ := tdiv_bounds a b ha hb h0 overflow
    rw [if_neg overflow]
    exact toInt_ofInt_word low high

theorem divideUnsigned_remainder (n : Nat) {a b : Nat} (ha : a < 2 ^ 32) (h0 : b ≠ 0) :
    (divideUnsigned n a b).remainder.toNat = a % b := by
  unfold divideUnsigned
  rw [if_neg h0]
  have le := Nat.mod_le a b
  exact Nat.mod_eq_of_lt (by omega)

/-- A division into one register leaves its remainder there. -/
theorem divideInto_one (s : State) (d : Division) (r : Reg) {nonzero : Prop} {P : Word → Prop}
    (hP : nonzero → P d.remainder) :
    ∃ t, Host.Outcome.next (φ := Fault) (ρ := Refusal) ((s.divideInto d r r).advance 4) = .next t ∧
      DivideFrame [r] 4 s t ∧ (nonzero → ∃ m : Word, P m ∧ t.readReg r = written r m) := by
  obtain ⟨regs, rest⟩ := divideInto_frame s d r r
  have one : RegsExcept [r] s ((s.divideInto d r r).advance 4) := fun q hq => regs q (by simpa using hq)
  exact ⟨_, rfl, ⟨one, rest⟩, fun h => ⟨_, hP h, divideInto_same s d r⟩⟩

theorem toInt_ne_zero {n : Nat} {v : BitVec n} (h : v ≠ 0) : v.toInt ≠ 0 := fun e => h (BitVec.toInt_inj.mp (by simpa using e))

theorem toNat_ne_zero {n : Nat} {v : BitVec n} (h : v ≠ 0) : v.toNat ≠ 0 := fun e => h (BitVec.toNat_inj.mp (by simpa using e))

/-- Settles O38: the remainder that each of the six forms leaves. -/
theorem divisionIntoOneRegister : Obligations.DivisionIntoOneRegister := by
  intro s R r
  have word := word_range (s.readReg r)
  have wordU := (s.readReg r).isLt
  have signed := divideInto_one s (s.wordDivision R r) r (P := fun m => m.toInt = _)
    (divideSigned_remainder s.free word (word_range (s.readReg R)))
  have unsigned := divideInto_one s (s.wordDivisionU R r) r (P := fun m => m.toNat = _)
    fun h => divideUnsigned_remainder s.free wordU (toNat_ne_zero h)
  refine ⟨fun i hi => ?signed, fun i hi => ?unsigned, ?half, ?halfU⟩
  case signed =>
    obtain rfl | rfl : i = .div R r r ∨ i = .divq R r r := by simpa using hi
    · exact signed
    · exact signed
  case unsigned =>
    obtain rfl | rfl : i = .divu R r r ∨ i = .divqu R r r := by simpa using hi
    · exact unsigned
    · exact unsigned
  case half =>
    exact divideInto_one s (s.halfDivision R r) r (P := fun m => m.toInt = _)
      fun h => divideSigned_remainder s.free word (half_range _) (toInt_ne_zero h)
  case halfU =>
    exact divideInto_one s (s.halfDivisionU R r) r (P := fun m => m.toNat = _)
      fun h => divideUnsigned_remainder s.free wordU (toNat_ne_zero h)

end Sys2Proof.Divisions
end

section
/-! # Branches, interrupt control, the synchronisations (R410 to R418, R456 to R472) -/

namespace Sys2Proof.Branches

open Sys2Proof Sys2Proof.Machine Sys2Proof.Laws Sys2Proof.Safety

/-- A jump leaves everything but the PC. -/
theorem jump (s : State) {v w : Word} (h : v = w) :
    ∃ t, Host.Outcome.next (φ := Fault) (ρ := Refusal) (s.setPc v) = .next t ∧ Frame [] [] s t ∧ t.pc = pcmask w :=
  ⟨_, rfl, frame_refl [] [] s, congrArg pcmask h⟩

/-- A jump with a link leaves everything but the PC and the link register. -/
theorem jumpAndLink (s : State) (R : Reg) (link : Word) {v w : Word} (h : v = w) :
    ∃ t, Host.Outcome.next (φ := Fault) (ρ := Refusal) ((s.writeReg R link).setPc v) = .next t ∧ Frame [R] [] s t ∧
      t.readReg R = written R link ∧ t.pc = pcmask w :=
  ⟨_, rfl, (frame_setPc ..).mpr (frame_writeReg (frame_refl ..) _ _ (by simp)), readReg_writeReg_same .., congrArg pcmask h⟩

/-- Settles O39: the target of each form, its displacement read as a number. -/
theorem branchesAndJumps : Obligations.BranchesAndJumps := by
  intro s R
  refine ⟨fun cc d => ?bcond, fun d => ?jr22, fun d => ?jr32, fun d => ?jarl22, fun d => ?jarl32, ?jmp, fun d => ?jmp32⟩
  case bcond =>
    have target : (if s.cond cc then s.setPc (s.pc + branch9 d) else s.advance 2) =
        s.setPc (s.pc + if s.cond cc then branch9 d else 2) := by
      split <;> rfl
    change ∃ t, Host.Outcome.next (if s.cond cc then s.setPc (s.pc + branch9 d) else s.advance 2) = .next t ∧ _
    rw [target]
    exact jump s (by rw [branch9_eq])
  case jr22 => exact jump s (by rw [branch22_eq])
  case jr32 => exact jump s (by rw [branch32_eq])
  case jarl22 => exact jumpAndLink s R _ (by rw [branch22_eq])
  case jarl32 => exact jumpAndLink s R _ (by rw [branch32_eq])
  case jmp => exact jump s rfl
  case jmp32 => exact jump s (by rw [branch32_eq])

/-- An instruction that writes PSW.ID writes nothing else. -/
theorem setId (s : State) (b : Bool) :
    ∃ t, Host.Outcome.next (φ := Fault) (ρ := Refusal) ((s.setPswBit 5 b).advance 4) = .next t ∧ t.pswID = b ∧
      Frame [] [5] s t ∧ Falls 4 s t :=
  ⟨_, rfl, getLsbD_setBit_same _ _ _ (by omega), (frame_advance ..).mpr (frame_setPswBit (frame_refl ..) _ _ (by simp)), rfl⟩

/-- Settles O47: DI and EI write one bit; the others move the PC, and HALT enters its mode. -/
theorem interruptControlAndWaiting : Obligations.InterruptControlAndWaiting := by
  intro s
  refine ⟨setId s true, setId s false, fun i hi => ?fallThrough, ?halt⟩
  case fallThrough =>
    obtain rfl | rfl | rfl | rfl : i = .nop ∨ i = .synce ∨ i = .syncm ∨ i = .syncp := by simpa using hi
    all_goals exact ⟨_, rfl, frame_refl .., rfl⟩
  case halt =>
    exact ⟨_, rfl, rfl, rfl, fun _ _ => rfl, fun _ _ => rfl, fun _ => rfl, rfl, rfl, rfl, rfl, rfl, rfl⟩

end Sys2Proof.Branches
end

section
/-! # Loads, stores and bit instructions (R220 to R245, R430 to R437)

Each is one access with the rest of the instruction after it; the laws say what such an access leaves, and an instruction adds
its address, its size and the datum. -/

namespace Sys2Proof.DataInstructions

open Sys2Proof Sys2Proof.Machine Sys2Proof.Laws Sys2Proof.Safety

/-! ## The datum that MemRead gives in plain memory -/

theorem sByte_plain {s : State} {a : Word} (h : Plain s a 1) : sByte (s.busByte a 1) = sByte (memBytes s a) := by
  rw [sByte, busByte_plain h (by omega)]; rfl

theorem uByte_plain {s : State} {a : Word} (h : Plain s a 1) : uByte (s.busByte a 1) = uByte (memBytes s a) := by
  rw [uByte, busByte_plain h (by omega)]; rfl

theorem sHalf_plain {s : State} {a : Word} (h : Plain s a 2) : sHalf (s.busByte a 2) = sHalf (memBytes s a) := by
  rw [sHalf, busByte_plain h (by omega), busByte_plain h (by omega)]; rfl

theorem uHalf_plain {s : State} {a : Word} (h : Plain s a 2) : uHalf (s.busByte a 2) = uHalf (memBytes s a) := by
  rw [uHalf, busByte_plain h (by omega), busByte_plain h (by omega)]; rfl

theorem wordOf_plain {s : State} {a : Word} (h : Plain s a 4) : wordOf (s.busByte a 4) = wordAt s a := by
  rw [wordOf, busByte_plain h (by omega), busByte_plain h (by omega), busByte_plain h (by omega),
    busByte_plain h (by omega)]
  rfl

/-- Settles O17: fifteen loads, each with its datum. -/
theorem loadsGiveMemory : Obligations.LoadsGiveMemory := by
  intro s R r
  refine ⟨?b, ?bu, ?h, ?hu, ?w, ?b23, ?bu23, ?h23, ?hu23, ?w23, ?sb, ?sbu, ?sh, ?shu, ?sw⟩
  case b | b23 | sb => exact fun d => loadGives_of _ s _ _ _ _ _ _ rfl sByte_plain
  case bu | bu23 | sbu => exact fun d => loadGives_of _ s _ _ _ _ _ _ rfl uByte_plain
  case h | h23 | sh => exact fun d => loadGives_of _ s _ _ _ _ _ _ rfl sHalf_plain
  case hu | hu23 | shu => exact fun d => loadGives_of _ s _ _ _ _ _ _ rfl uHalf_plain
  case w | w23 | sw => exact fun d => loadGives_of _ s _ _ _ _ _ _ rfl wordOf_plain

/-- Settles O18: nine stores, of one, two or four bytes. -/
theorem storesWriteMemory : Obligations.StoresWriteMemory := by
  intro s R r
  refine ⟨?b, ?h, ?w, ?b23, ?h23, ?w23, ?sb, ?sh, ?sw⟩
  all_goals exact fun d => storeGives_of _ s _ _ _ _ _ (by decide) rfl

/-- Settles O40: the four operations in both forms, which differ in the address and in where the bit number comes from. -/
theorem bitInstructions : Obligations.BitInstructions := by
  intro s R r b d a k
  rw [← isSp_eq]
  constructor
  case left =>
    rintro rfl rfl
    exact ⟨bitGives_of _ s _ _ b.isLt _ .set _ rfl fun _ => rfl, bitGives_of _ s _ _ b.isLt _ .invert _ rfl fun _ => rfl,
      bitGives_of _ s _ _ b.isLt _ .clear _ rfl fun _ => rfl, testGives_of _ s _ _ _ rfl⟩
  case right =>
    rintro rfl rfl
    have lt : bitNumber (s.readReg r) < 8 := by rw [bitNumber_eq]; omega
    rw [← bitNumber_eq]
    exact ⟨bitGives_of _ s _ _ lt _ .set _ rfl fun _ => rfl, bitGives_of _ s _ _ lt _ .invert _ rfl fun _ => rfl,
      bitGives_of _ s _ _ lt _ .clear _ rfl fun _ => rfl, testGives_of _ s _ _ _ rfl⟩

end Sys2Proof.DataInstructions
end

section
/-! # The data check and the execution check (R140 to R147) -/

namespace Sys2Proof.Protection

open Sys2Proof Sys2Proof.Machine Sys2Proof.Laws Sys2Proof.Safety

/-! ## Areas -/

theorem covers_iff (s : State) (n : Fin 4) (a b : Nat) : s.covers n a b = true ↔ AreaCovers s n a b := by
  simp only [State.covers, State.areaInForce, Bool.and_eq_true, decide_eq_true_eq, and_assoc]
  rfl

theorem areaBit_iff (s : State) (n : Fin 4) (k : Perm) : s.areaBit k n = true ↔ AreaGrants s n k := by
  cases k <;> rfl

theorem mem_areas (n : Fin 4) : n ∈ areas := by revert n; decide

theorem any_areas_iff (p : Fin 4 → Bool) : areas.any p = true ↔ ∃ n, p n = true := by
  simp [List.any_eq_true, mem_areas]

theorem perm_iff (s : State) (k : Perm) (a b : Nat) :
    s.perm k a b = true ↔ ∃ n, AreaCovers s n a b ∧ AreaGrants s n k := by
  simp only [State.perm, any_areas_iff, Bool.and_eq_true, covers_iff, areaBit_iff]

/-! ## The data check -/

theorem mem_needs_iff (acc : Access) (k : Perm) : k ∈ acc.needs ↔ Needs acc k := by
  obtain ⟨a, n, kind, sp⟩ := acc
  cases kind <;> cases sp <;> cases k <;> simp [Access.needs, AccessKind.needs, Needs]

theorem access_inSpace_iff (acc : Access) :
    acc.inSpace = true ↔ ∀ k : Nat, k < acc.size → (acc.addr + BitVec.ofNat 32 k).toNat < 0x02000000 ∨
      0xFE000000 ≤ (acc.addr + BitVec.ofNat 32 k).toNat := by
  simp only [Access.inSpace, List.all_eq_true, List.mem_range, inSpace_iff]

/-- What an aligned access needs: each permission in some area. -/
theorem permits_of_aligned (s : State) {acc : Access} (h : acc.addr.toNat % acc.size = 0) :
    s.permits acc = true ↔ acc.inSpace = true ∧ ∀ k, Needs acc k →
      ∃ n, AreaCovers s n acc.addr.toNat acc.last ∧ AreaGrants s n k := by
  have aligned : acc.misaligned = false := by simp [Access.misaligned, h]
  simp only [State.permits, aligned, Bool.and_eq_true, Bool.false_eq_true, if_false, List.all_eq_true, mem_needs_iff, perm_iff]

/-- What a misaligned access needs: all permissions in one area. -/
theorem permits_of_misaligned (s : State) {acc : Access} (h : acc.addr.toNat % acc.size ≠ 0) :
    s.permits acc = true ↔ acc.inSpace = true ∧ ∃ n, AreaCovers s n acc.addr.toNat acc.last ∧
      ∀ k, Needs acc k → AreaGrants s n k := by
  have misaligned : acc.misaligned = true := by simp [Access.misaligned, h]
  simp only [State.permits, misaligned, Bool.and_eq_true, if_true, any_areas_iff, List.all_eq_true, mem_needs_iff, covers_iff,
    areaBit_iff]

/-- Settles O19: the two cases of the check, the one that does not arise dropped. -/
theorem dataCheckDecidesViolation : Obligations.DataCheckDecidesViolation := by
  intro s acc _
  rw [State.violates, Bool.and_eq_true, Bool.not_eq_true', ← Bool.not_eq_true, ← access_inSpace_iff]
  refine and_congr_right fun _ => not_congr ?_
  by_cases h : acc.addr.toNat % acc.size = 0
  · rw [permits_of_aligned s h]
    exact and_congr_right fun _ => ⟨fun areas => ⟨fun _ => areas, absurd h⟩, fun both => both.1 h⟩
  · rw [permits_of_misaligned s h]
    exact and_congr_right fun _ => ⟨fun area => ⟨fun e => absurd e h, fun _ => area⟩, fun both => both.2 h⟩

/-! ## The execution check -/

theorem fetchLength_even (s : State) : s.fetchLength % 2 = 0 := by
  unfold State.fetchLength instrBytes
  repeat' split
  all_goals rfl

/-- Settles O22: a halfword violates when no area with X = 1 covers it, and the instruction has half as many halfwords as bytes. -/
theorem executionCheckDecidesViolation : Obligations.ExecutionCheckDecidesViolation := by
  intro s
  have even := fetchLength_even s
  have halfword (k : Nat) : k < s.fetchLength / 2 ↔ 2 * k < s.fetchLength := by omega
  simp only [State.fetchViolates, List.any_eq_true, List.mem_range, halfword, State.halfViolates, Bool.and_eq_true,
    Bool.not_eq_true', ← Bool.not_eq_true (State.perm ..), perm_iff, And.comm (a := AreaCovers ..)]
  constructor
  · rintro ⟨k, hk, force, none⟩
    exact ⟨force, k, hk, none⟩
  · rintro ⟨force, k, hk, none⟩
    exact ⟨k, hk, force, none⟩

/-! ## MDP (R551) -/

theorem takeMdp_enters (s : State) (acc : Access) :
    EntersFe 0x431 s.pc (s.sys.ehBase + 0x30) false true (violationRecorded s acc.addr acc.vmecr) s (s.takeMdp acc) :=
  entersFe_violation s acc.addr acc.vmecr 0x431

/-- An instruction with one data access is that access, checked, and what the access does. -/
theorem exec_eq_access {i : Instr} {s : State} {acc : Access} (h : dataAccess i s = some acc) :
    ∃ done, exec i s = .next (s.access acc done) := by
  cases i with
  | ldB | ldBu | ldH | ldHu | ldW | ldBDisp23 | ldBuDisp23 | ldHDisp23 | ldHuDisp23 | ldWDisp23
  | sldB | sldBu | sldH | sldHu | sldW | stB | stH | stW | stBDisp23 | stHDisp23 | stWDisp23 | sstB | sstH | sstW
  | set1 | not1 | clr1 | tst1 | set1Reg | not1Reg | clr1Reg | tst1Reg | caxi | callt | switch =>
    obtain rfl := Option.some.inj h
    exact ⟨_, rfl⟩
  | _ => exact nomatch h

/-- Settles O20: a violated access ends the instruction in MDP. -/
theorem violatedAccessEntersMdp : Obligations.ViolatedAccessEntersMdp := by
  intro i s acc ha hv
  obtain ⟨done, he⟩ := exec_eq_access ha
  rw [access_of_violation done hv] at he
  exact ⟨_, he, takeMdp_enters s acc, fun _ _ => rfl, fun _ => rfl⟩

end Sys2Proof.Protection
end

section
/-! # Table transfers and CAXI (R453, R454, R469) -/

namespace Sys2Proof.TableAccesses

open Sys2Proof Sys2Proof.Machine Sys2Proof.Laws Sys2Proof.Safety Sys2Proof.DataInstructions

theorem shiftLeft_one (v : Word) : v <<< 1 = v + v := by
  apply BitVec.eq_of_toNat_eq
  simp [BitVec.toNat_shiftLeft, Nat.shiftLeft_eq]
  omega

theorem shiftLeft_one_ofNat (v : Word) : v <<< 1 = BitVec.ofNat 32 (2 * v.toNat) := by
  apply BitVec.eq_of_toNat_eq
  simp [BitVec.toNat_shiftLeft, Nat.shiftLeft_eq]
  omega

/-! ## CALLT and SWITCH -/

theorem calltEntry_eq (s : State) (i : BitVec 6) : s.calltEntry i = s.sys.ctbp + BitVec.ofNat 32 (2 * i.toNat) := by
  rw [State.calltEntry, shiftLeft_one_ofNat, BitVec.toNat_setWidth_of_le (by omega)]

theorem switchEntry_eq (s : State) (R : Reg) :
    s.switchEntry R = s.pc + 2 + BitVec.ofNat 32 (2 * (s.readReg R).toNat) := by
  rw [State.switchEntry, shiftLeft_one_ofNat]
  rfl

/-- CALLT where its table read is permitted. -/
theorem exec_callt (s : State) (i : BitVec 6) (h : Permitted s (s.calltEntry i) 2 .table false) :
    exec (.callt i) s = .next (s.reading (s.calltEntry i) 2 fun t =>
      t.saveCall.setPc (s.sys.ctbp + uHalf (s.busByte (s.calltEntry i) 2))) :=
  congrArg Host.Outcome.next (access_of_permitted _ h)

/-- SWITCH where its table read is permitted. -/
theorem exec_switch (s : State) (R : Reg) (h : Permitted s (s.switchEntry R) 2 .table false) :
    exec (.switch R) s = .next (s.reading (s.switchEntry R) 2 fun t =>
      t.setPc (s.pc + 2 + sHalf (s.busByte (s.switchEntry R) 2) + sHalf (s.busByte (s.switchEntry R) 2))) := by
  refine (congrArg Host.Outcome.next (access_of_permitted _ h)).trans ?_
  rw [shiftLeft_one, ← BitVec.add_assoc]
  rfl

/-- What CALLT does when its table read, on the state u after it, has no error. -/
theorem callt_ends {s u : State} (v : Word) (h : OnlyAsked s u) :
    (u.saveCall.setPc v).sys = { s.sys with ctpc := pcmask (s.pc + 2), ctpsw := s.psw } ∧
      RegsExcept [] s (u.saveCall.setPc v) ∧ PswExcept [] s (u.saveCall.setPc v) ∧ MemSame s (u.saveCall.setPc v) ∧
      (u.saveCall.setPc v).free = s.free := by
  rw [h]
  exact ⟨rfl, fun _ _ => rfl, fun _ _ => rfl, fun _ => rfl, rfl⟩

/-- Settles O54: the table read on plain memory, with an answer of the platform, and with its error. -/
theorem tableTransfers : Obligations.TableTransfers := by
  intro s a permitted
  constructor
  case left =>
    intro i ha
    obtain rfl : a = s.calltEntry i := ha.trans (calltEntry_eq s i).symm
    rw [exec_callt s i permitted]
    refine ⟨fun plain => ⟨_, rfl, ?plain⟩, fun ok => ⟨_, rfl, ?answered⟩, fun e he => ⟨_, rfl, aborted_reading _ he⟩⟩
    case plain =>
      obtain ⟨sys, regs, psw, mem, free⟩ :=
        callt_ends (s.sys.ctbp + uHalf (memBytes s (s.calltEntry i))) (onlyAsked_refl s)
      rw [reading_plain _ plain, uHalf_plain plain]
      exact ⟨rfl, sys, regs, psw, mem, free, rfl, rfl, rfl, rfl, rfl, rfl, rfl⟩
    case answered =>
      have asked := onlyAsked_afterRead s (s.calltEntry i) 2
      obtain ⟨sys, regs, psw, mem, free⟩ := callt_ends (s.sys.ctbp + uHalf (s.busByte (s.calltEntry i) 2)) asked
      rw [reading_ok _ ok]
      exact ⟨rfl, sys, regs, psw, mem, free, asked, rfl, rfl, rfl, rfl, rfl, rfl, rfl⟩
  case right =>
    intro R ha
    obtain rfl : a = s.switchEntry R := ha.trans (switchEntry_eq s R).symm
    rw [exec_switch s R permitted]
    refine ⟨fun plain => ⟨_, rfl, ?plain⟩, fun ok => ⟨_, rfl, ?answered⟩, fun e he => ⟨_, rfl, aborted_reading _ he⟩⟩
    case plain =>
      rw [reading_plain _ plain, sHalf_plain plain]
      exact ⟨rfl, frame_refl [] [] s⟩
    case answered =>
      rw [reading_ok _ ok]
      exact ⟨rfl, onlyAsked_afterRead .., frame_refl [] [] (s.afterRead _ 2)⟩

/-! ## CAXI -/

/-- CAXI from the state u after its write: the flags, the old word in reg3, and on to the next instruction. -/
def caxiEnd (u : State) (w : Reg) (x token : Word) : State :=
  ((u.withFlags (subFlags x token false)).writeReg w token).advance 4

/-- CAXI where its access is permitted. -/
theorem exec_caxi (s : State) (R r w : Reg) {token new : Word} (htoken : token = wordOf (s.busByte (s.caxiAddr R) 4))
    (hnew : new = if s.readReg r = token then s.readReg w else token)
    (h : Permitted s (s.caxiAddr R) 4 .modify (decide (R = 3))) :
    exec (.caxi R r w) s = .next (s.reading (s.caxiAddr R) 4 fun t => t.writing (s.caxiAddr R) 4 new fun u =>
      caxiEnd u w (s.readReg r) token) := by
  subst htoken hnew
  rw [← isSp_eq] at h
  exact congrArg Host.Outcome.next (access_of_permitted _ h)

/-- What CAXI leaves after its write. -/
theorem caxiEnd_spec (u : State) (w : Reg) (x token : Word) :
    (caxiEnd u w x token).readReg w = written w token ∧ DifferenceFlags x token 0 (caxiEnd u w x token) ∧
      Falls 4 u (caxiEnd u w x token) ∧ Frame [w] arithBits u (caxiEnd u w x token) := by
  refine ⟨by simp [caxiEnd], ?_, falls_advance _ _ _ (by simp), ?_⟩
  · exact differenceFlags_congr (by simp [caxiEnd]) (differenceFlags_withFlags u x token false)
  · exact (frame_advance ..).mpr (frame_writeReg (frame_withFlags (frame_refl ..) _ (by simp [arithBits])
      (by simp [arithBits]) (by simp [arithBits]) (by simp [arithBits])) _ _ (by simp))

theorem storeFrame_of_frame {rs : List Reg} {bits : List Nat} {a : Word} {n : Nat} {s u t : State}
    (hu : u = { s with mem := u.mem }) (hm : MemExcept a n s u) (h : Frame rs bits u t) : StoreFrame rs bits a n s t := by
  obtain ⟨regs, psw, mem, rest⟩ := h
  have keep (P : State → Prop) (hs : ∀ m, P { s with mem := m } → P s) (h : P u) : P s := by rw [hu] at h; exact hs _ h
  exact ⟨keep (fun v => RegsExcept rs v t) (fun _ h => h) regs, keep (fun v => PswExcept bits v t) (fun _ h => h) psw,
    fun b hb => (mem b).trans (hm b hb), keep (fun v => RestSame v t) (fun _ h => h) rest⟩

theorem stored_of_memSame {a : Word} {n : Nat} {v : Word} {u t : State} (h : Stored a n v u) (hm : MemSame u t) :
    Stored a n v t := fun k hk => (hm _).trans (h k hk)

theorem falls_of_pc {n : Nat} {s u t : State} (h : u.pc = s.pc) (hf : Falls n u t) : Falls n s t := by
  rw [Falls, ← h]; exact hf

/-- Settles O55: the read and the write on plain memory, with answers of the platform, and with the error of either. -/
theorem compareAndExchange : Obligations.CompareAndExchange := by
  rintro s u R r w a token new ha htoken hnew hu permitted
  obtain rfl : a = s.caxiAddr R := ha
  rw [exec_caxi s R r w htoken hnew permitted]
  refine ⟨fun plain => ⟨_, rfl, ?plain⟩, fun okRead okWrite => ⟨_, rfl, ?answered⟩,
    fun e he => ⟨_, rfl, aborted_reading _ he⟩, fun e okRead he => ⟨_, rfl, ?writeError⟩⟩
  case plain =>
    obtain ⟨stored, only⟩ := busWrite_plain new (by decide) plain
    rw [reading_plain _ plain, writing_ok _ _ (busError_plain plain)]
    obtain ⟨reg, flags, falls, frame⟩ := caxiEnd_spec (s.busWrite (s.caxiAddr R) 4 new) w (s.readReg r) token
    obtain ⟨except, _⟩ := onlyStored_busWrite s (s.caxiAddr R) 4 new (by decide)
    exact ⟨htoken.trans (wordOf_plain plain), reg, flags, falls_of_pc (by rw [only]) falls,
      stored_of_memSame stored frame.2.2.1, storeFrame_of_frame only except frame⟩
  case answered =>
    subst hu
    rw [reading_ok _ okRead, writing_ok _ _ okWrite]
    obtain ⟨reg, flags, falls, frame⟩ :=
      caxiEnd_spec ((s.afterRead (s.caxiAddr R) 4).busWrite (s.caxiAddr R) 4 new) w (s.readReg r) token
    have only : OnlyStored (s.caxiAddr R) 4 s ((s.afterRead (s.caxiAddr R) 4).busWrite (s.caxiAddr R) 4 new) :=
      onlyStored_trans (onlyStored_of_asked (onlyAsked_afterRead ..)) (onlyStored_busWrite _ _ _ _ (by decide))
    exact ⟨reg, flags, falls_of_pc (onlyStored_pc only) falls, only, frame⟩
  case writeError =>
    subst hu
    rw [reading_ok _ okRead]
    exact aborted_modify _ _ he

end Sys2Proof.TableAccesses
end

section
/-! # Software exceptions and returns (R450 to R474) -/

namespace Sys2Proof.ExceptionsAndReturns

open Sys2Proof Sys2Proof.Machine Sys2Proof.Laws Sys2Proof.Safety Sys2Proof.DataInstructions

/-- An instruction that enters an FE-level exception and does nothing else. -/
theorem raises_fe (s : State) (c : Cause) (h : c.level = .fe) :
    ∃ t, Host.Outcome.next (φ := Fault) (ρ := Refusal) (s.take c) = .next t ∧ RegsExcept [] s t ∧ MemSame s t ∧
      EntersFe c.code c.ret c.handler c.interrupt c.clears s.sys s t :=
  ⟨_, rfl, (take_regs s c).1, (take_regs s c).2, entersFe_take s c h⟩

theorem trapCause_handler (s : State) (v : BitVec 5) :
    (s.trapCause v).handler = s.sys.ehBase + (if v.toNat < 16 then 0x40 else 0x50) := by
  rw [State.trapCause]
  split <;> rfl

theorem syscallEntry_eq (s : State) (v : BitVec 8) :
    s.syscallEntry v =
      s.sys.scbp + BitVec.ofNat 32 (if v.toNat ≤ s.sys.sccfg.toNat % 256 then 4 * v.toNat else 0) := by
  have size : (byteOf s.sys.sccfg 0).toNat = s.sys.sccfg.toNat % 256 := by simp [byteOf, BitVec.extractLsb'_toNat]
  have entry : v.setWidth 32 <<< 2 = BitVec.ofNat 32 (4 * v.toNat) := by
    apply BitVec.eq_of_toNat_eq
    simp [BitVec.toNat_shiftLeft, Nat.shiftLeft_eq]
    omega
  rw [State.syscallEntry, size, entry]
  split
  · rfl
  · rw [BitVec.add_zero]

/-- Settles O45: each cause, its code read as a number; SYSCALL by how its table read ends. -/
theorem softwareExceptions : Obligations.SoftwareExceptions := by
  intro s
  refine ⟨fun v => ?fetrap, fun v => ?trap, raises_fe s s.rieCause rfl, fun _ _ => raises_fe s s.rieCause rfl,
    fun v a ha => ?syscall⟩
  case fetrap =>
    rw [BitVec.ofNat_toNat]
    exact raises_fe s (s.fetrapCause v) rfl
  case trap =>
    rw [BitVec.ofNat_toNat, ← trapCause_handler]
    exact ⟨_, rfl, (take_regs s _).1, (take_regs s _).2, entersEi_take s (s.trapCause v) rfl rfl⟩
  case syscall =>
    obtain rfl : a = s.syscallEntry v := ha.trans (syscallEntry_eq s v).symm
    rw [BitVec.ofNat_toNat]
    have enters (u : State) := entersEi_take u (s.syscallCause v) rfl rfl
    refine ⟨fun plain => ⟨_, congrArg Host.Outcome.next (reading_plain _ plain), ?plain⟩,
      fun ok => ⟨_, congrArg Host.Outcome.next (reading_ok _ ok), ?answered⟩, fun e he => ⟨_, rfl, aborted_reading _ he⟩⟩
    case plain =>
      rw [← wordOf_plain plain]
      exact ⟨fun _ _ => rfl, fun _ => rfl, enters s⟩
    case answered =>
      exact ⟨fun q _ => afterRead_readReg s _ 4 q, fun x => afterRead_read8 s _ 4 x, onlyAsked_afterRead .., enters _⟩

/-- Settles O46: each return restores one pair of saved registers; RETI chooses between two. -/
theorem returnsRestoreContext : Obligations.ReturnsRestoreContext := by
  intro s
  have notified (ret v : Word) : Returns ret v (!s.pswEP) s (s.notifyEnd.restore ret v) :=
    returns_restore s ret v _ _ (notifyEnd_eq s)
  refine ⟨⟨_, rfl, notified ..⟩, ⟨_, rfl, notified ..⟩, ⟨_, rfl, returns_restore s _ _ false s rfl⟩, ?reti⟩
  by_cases h : s.pswEP = false ∧ s.pswNP = true
  · have fe : (!s.pswEP && s.pswNP) = true := by rw [h.1, h.2]; rfl
    rw [if_pos h, if_pos h]
    exact ⟨_, congrArg Host.Outcome.next (if_pos fe), notified ..⟩
  · have ei : ¬(!s.pswEP && s.pswNP) = true := by simpa using h
    rw [if_neg h, if_neg h]
    exact ⟨_, congrArg Host.Outcome.next (if_neg ei), notified ..⟩

end Sys2Proof.ExceptionsAndReturns
end

section
/-! # One step: reset, HALT mode, requests, the fetch (R511 to R513, R600) -/

namespace Sys2Proof.StepStages

open Sys2Proof Sys2Proof.Machine Sys2Proof.Laws Sys2Proof.Safety

/-! ## Every step answers a state -/

/-- No instruction is refused. -/
theorem exec_answers (i : Instr) (s : State) : ∃ t, exec i s = .next t := by
  cases i <;> exact ⟨_, rfl⟩

theorem runDecoded_answers (s u : State) : ∃ t, s.runDecoded u = .next t := by
  unfold State.runDecoded
  split
  · exact ⟨_, rfl⟩
  · split
    · exact exec_answers _ _
    · exact ⟨_, rfl⟩

theorem runStep_answers (s : State) (p : Sample) : ∃ t, s.runStep p = .next t := by
  unfold State.runStep State.runInstruction
  split
  · exact ⟨_, rfl⟩
  · split
    · exact ⟨_, rfl⟩
    · split
      · exact ⟨_, rfl⟩
      · exact runDecoded_answers ..

/-- Settles O9: each stage of R513 answers a state, and so does every instruction. -/
theorem stepAlwaysAnswersNext : Obligations.StepAlwaysAnswersNext := by
  intro s
  change ∃ t, s.popSample.cycleWith s.sample = .next t
  unfold State.cycleWith
  split
  · exact ⟨_, rfl⟩
  · split
    · exact ⟨_, rfl⟩
    · exact runStep_answers ..

/-! ## Reset -/

theorem pcmask_baseMask (v : Word) : pcmask (baseMask v) = baseMask v := by
  apply BitVec.eq_of_getLsbD_eq
  intro k hk
  simp only [pcmask_bit, baseMask_bit]
  grind

/-- Settles O8: the reset comes before everything else, and its state is written out. -/
theorem resetInputResets : Obligations.ResetInputResets := by
  intro s h
  have areasZero (n : Fin 4) : (Vector.replicate 4 (0 : Word))[n] = 0 := by simp
  have noImp : s.popSample.resetFrom.impInForce = false := by simp [State.impInForce, State.resetFrom, State.pswIMP]
  exact ⟨s.popSample.resetFrom, if_pos h, rfl, pcmask_baseMask _, rfl, rfl, rfl, rfl, rfl, rfl, rfl, rfl, rfl, rfl, rfl, rfl,
    rfl, rfl, rfl, fun n => ⟨areasZero n, areasZero n⟩, rfl, rfl, noImp, rfl, rfl, rfl, rfl, fun _ => rfl⟩

/-- Settles O10: the values are written in State.reset, the PC as a masked 0. -/
theorem resetState : Obligations.ResetState :=
  ⟨rfl, rfl, rfl, rfl, rfl, rfl, rfl, rfl, rfl, rfl, rfl, rfl, rfl, rfl, rfl, rfl, rfl, rfl⟩

/-! ## HALT mode -/

/-- A step out of HALT mode, or one that a request wakes, goes on with the request and the instruction. -/
theorem step_of_awake {s : State} (hr : s.sample.reset = false) (h : s.halted = false ∨ wakes s.sample = true) :
    step s = (awake s).runStep s.sample := by
  change s.popSample.cycleWith s.sample = _
  have goesOn : (s.popSample.halted && !wakes s.sample) = false := by
    rw [popSample_halted]
    rcases h with h | h <;> simp [h]
  rw [State.cycleWith, hr, goesOn]
  rfl

/-- Settles O7: without a request the sample alone is used up; a request leads where it leads out of HALT mode. -/
theorem haltModeWaits : Obligations.HaltModeWaits := by
  intro s hh hr
  constructor
  case left =>
    intro fenmi syserr feint int
    change s.popSample.cycleWith s.sample = _
    have waits : (s.popSample.halted && !wakes s.sample) = true := by
      simp [wakes, hh, fenmi, syserr, feint, int]
    rw [State.cycleWith, hr, waits]
    rfl
  case right =>
    intro request
    have woken : wakes s.sample = true := by
      simpa [wakes, Option.isSome_iff_ne_none, or_assoc] using request
    rw [step_of_awake hr (.inr woken)]
    exact (step_of_awake (s := { s with halted := false }) hr (.inl rfl)).symm

/-! ## Requests -/

/-- What is accepted was requested, so it ends HALT mode. -/
theorem wakes_of_accepted {s : State} {p : Sample} {c : Cause} (h : s.accepted p = some c) : wakes p = true := by
  unfold State.accepted at h
  unfold wakes
  cases hfenmi : p.fenmi with
  | true => rfl
  | false =>
    cases hsyserr : p.syserr with
    | some k => rfl
    | none =>
      cases hfeint : p.feint with
      | true => rfl
      | false =>
        cases hint : p.int with
        | some n => rfl
        | none => simp [hfenmi, hsyserr, hfeint, hint] at h

/-- A step on which a request is accepted. -/
theorem step_accept {s : State} {c : Cause} (hr : s.sample.reset = false) (h : (awake s).accepted s.sample = some c) :
    step s = .next ((awake s).take c) := by
  rw [step_of_awake hr (.inr (wakes_of_accepted h)), State.runStep, h]

theorem step_accept_fe {s : State} {c : Cause} (hr : s.sample.reset = false)
    (h : (awake s).accepted s.sample = some c) (hl : c.level = .fe) : ∃ t, step s = .next t ∧
      EntersFe c.code c.ret c.handler c.interrupt c.clears s.sys (awake s) t ∧ RegsExcept [] s t ∧ MemSame s t :=
  ⟨_, step_accept hr h, entersFe_take (awake s) c hl, fun _ _ => rfl, fun _ => rfl⟩

theorem slot_eq (n : Fin 256) : 0x10 * BitVec.ofNat 32 n.val = BitVec.ofNat 32 (16 * n.val) := by
  apply BitVec.eq_of_toNat_eq
  simp

theorem intHandler_eq (s : State) (n : Fin 256) : s.intHandler n =
    s.sys.ehBase + 0x80 + (if s.sys.ehCfg.getLsbD 0 then 0 else BitVec.ofNat 32 (16 * n.val)) := by
  rw [State.intHandler, slot_eq]
  split
  · exact (BitVec.add_zero _).symm
  · exact (BitVec.add_assoc ..).symm

/-- Settles O6: the order in which State.accepted looks at the sample. -/
theorem interruptAcceptance : Obligations.InterruptAcceptance := by
  intro s hr
  refine ⟨fun fenmi => ?fenmi, fun k fenmi syserr => ?syserr, fun fenmi syserr feint np => ?feint,
    fun n fenmi syserr feint int np id => ?int⟩
  case fenmi =>
    have h : (awake s).accepted s.sample = some (awake s).fenmiCause := by
      simp [State.accepted, fenmi]
    have enters := step_accept_fe hr h rfl
    exact enters
  case syserr =>
    have h : (awake s).accepted s.sample = some ((awake s).syserrCause k) := by
      simp [State.accepted, fenmi, syserr]
    have enters := step_accept_fe hr h rfl
    exact enters
  case feint =>
    have held : (awake s).pswNP = false := np
    have h : (awake s).accepted s.sample = some (awake s).feintCause := by
      simp [State.accepted, fenmi, syserr, feint, held]
    have enters := step_accept_fe hr h rfl
    exact enters
  case int =>
    have heldNp : (awake s).pswNP = false := np
    have heldId : (awake s).pswID = false := id
    have h : (awake s).accepted s.sample = some ((awake s).intCause n) := by
      simp [State.accepted, fenmi, syserr, feint, int, heldNp, heldId]
    have enters := entersEi_take (awake s) ((awake s).intCause n) rfl rfl
    rw [← slot_eq]
    rw [show ((awake s).intCause n).handler = _ from intHandler_eq (awake s) n, ← slot_eq] at enters
    exact ⟨_, step_accept hr h, enters, fun _ _ => rfl, fun _ => rfl⟩

/-! ## The fetch -/

/-- A step on which nothing is accepted, in the terms of Safety: the checks are those of the state before the step, since the
sample plays no part in them. -/
theorem step_fetch {s : State} (hh : s.halted = false) (h : NothingAccepted s) : step s =
    if s.fetchViolates then .next (fetchSeen s).takeMip
    else match s.fetchError s.sample.mep with
      | some e => .next ((fetchSeen s).takeError e)
      | none => s.runDecoded (fetched s) := by
  rw [step_run s hh h, State.runInstruction]
  rfl

/-- A step that the fetch does not end runs the code at the PC. -/
theorem step_runDecoded {s : State} (hh : s.halted = false) (h : NothingAccepted s) (hv : s.fetchViolates = false)
    (he : s.fetchError s.sample.mep = none) : step s = s.runDecoded (fetched s) := by
  rw [step_fetch hh h, hv, he]
  rfl

theorem runDecoded_coproc {s : State} (u : State) {k : Fin 8} (h : coprocCode s.product.coproc s.code = some k) :
    s.runDecoded u = .next (u.take (u.ucpopCause k)) := by
  rw [State.runDecoded, h]

theorem runDecoded_instr {s : State} (u : State) {i : Instr} (hc : coprocCode s.product.coproc s.code = none)
    (h : s.instrAt = some i) : s.runDecoded u = exec i u := by
  rw [State.runDecoded, hc, h]

theorem runDecoded_reserved {s : State} (u : State) (hc : coprocCode s.product.coproc s.code = none)
    (h : s.instrAt = none) : s.runDecoded u = .next (u.take u.rieCause) := by
  rw [State.runDecoded, hc, h]

theorem instrAt_of_decoded {s : State} {i : Instr} {rest : List Byte} (h : decode s.fetchBytes = .instr i rest) :
    s.instrAt = some i := by
  rw [State.instrAt, h]

theorem instrAt_of_rejected {s : State} {why : DecodeReject} (h : decode s.fetchBytes = .rejected why) :
    s.instrAt = reservedAction s.product.reserved s.code := by
  rw [State.instrAt, h]

/-- Entering an FE-level exception once the fetch is seen. -/
theorem fetched_raises (s : State) (c : Cause) (h : c.level = .fe) :
    EntersFe c.code c.ret c.handler c.interrupt c.clears s.sys (fetched s) ((fetched s).take c) ∧
      RegsExcept [] s ((fetched s).take c) ∧ MemSame s ((fetched s).take c) :=
  ⟨entersFe_take (fetched s) c h, fun _ _ => rfl, fun _ => rfl⟩

/-- Settles O5: each stage by the condition that reaches it, and what the fetch has asked before an error. -/
theorem fetchStageExceptions : Obligations.FetchStageExceptions := by
  intro s hh accepted
  refine ⟨fun hv => ?mip, fun e hv he => ?fetchError, fun k hk => ?sampled, fun k e ks hv hm hk he first hks => ?first,
    fun plain => ?plain, fun k hv he hc => ?ucpop, fun why hv he hc hd hr => ?rie⟩
  case mip =>
    have h : step s = .next (fetchSeen s).takeMip := by rw [step_fetch hh accepted, hv]; rfl
    exact ⟨_, h, entersFe_violation (fetchSeen s) s.pc 2 0x430, fun _ _ => rfl, fun _ => rfl⟩
  case fetchError =>
    have h : step s = .next ((fetchSeen s).takeError e) := by rw [step_fetch hh accepted, hv, he]; rfl
    obtain ⟨_, enters, _, _⟩ := aborted_takeError e (onlyAsked_fetchAfter s.popSample s.popSample.fetchCount)
    exact ⟨_, h, enters, fun _ _ => rfl, fun _ => rfl⟩
  case sampled => rw [hk]; rfl
  case first =>
    obtain ⟨error, count⟩ := fetchError_first hv hk he first
    rw [hm, hks]
    have seen : fetchSeen s = s.popSample.fetchAfter s.fetchCount := rfl
    exact ⟨error, by rw [seen, count]; rfl⟩
  case plain => exact ⟨fetchError_plain plain _, fetchDone_plain (s := s.popSample) plain⟩
  case ucpop =>
    have h := (step_runDecoded hh accepted hv he).trans (runDecoded_coproc _ hc)
    exact ⟨_, h, fetched_raises s _ rfl⟩
  case rie =>
    have h := (step_runDecoded hh accepted hv he).trans (runDecoded_reserved _ hc ((instrAt_of_rejected hd).trans hr))
    exact ⟨_, h, fetched_raises s _ rfl⟩

/-- Settles O4: the instruction is told by instrAt, and a fetch that nothing stops has asked for every halfword. -/
theorem stepRunsDecodedInstruction : Obligations.StepRunsDecodedInstruction := by
  rintro s ⟨hh, accepted, hv, he, hc⟩
  have runs {i : Instr} (h : s.instrAt = some i) : step s = exec i (fetched s) :=
    (step_runDecoded hh accepted hv he).trans (runDecoded_instr _ hc h)
  refine ⟨fun i rest hd => runs (instrAt_of_decoded hd), fun i why hd hr => runs ((instrAt_of_rejected hd).trans hr),
    fun ks hks => ?asked, fun plain => ?plain⟩
  case asked =>
    have seen : fetched s = (s.popSample.fetchAfter s.fetchCount).tickImp := rfl
    rw [seen, fetchCount_of_permitted hv he, hks]
    rfl
  case plain =>
    have seen : fetchSeen s = s.popSample := fetchDone_plain (s := s.popSample) plain
    rw [fetched, seen]
    rfl

end Sys2Proof.StepStages
end

section
/-! # Written words and the bank tables -/

namespace Sys2Proof.Tables

open Sys2Proof Sys2Proof.Machine

/-- Settles O1: each word is decoded. -/
theorem decodeWrittenWords : Obligations.DecodeWrittenWords := by
  unfold Obligations.DecodeWrittenWords
  decide

/-- Settles O53: each bank is listed; the common registers do not look at BSEL. -/
theorem bankTables : Obligations.BankTables :=
  ⟨by decide, by decide, by decide, by decide, by decide, by decide,
    List.forall_mem_cons.mpr ⟨by decide, List.forall_mem_singleton.mpr (by decide)⟩, fun _ => ⟨rfl, rfl, rfl, rfl⟩⟩

end Sys2Proof.Tables
end

section
/-! # What one instruction can do

One inversion of exec, for the statements about every instruction. An instruction makes its data accesses, each one checked (but
for that of SYSCALL), and then ends in one of few ways: it writes registers, flags and the PC; MDP or the exception of an access
error is entered; or it is a software exception, a return or an LDSR. -/

namespace Sys2Proof.Instructions

open Sys2Proof Sys2Proof.Machine Sys2Proof.Laws Sys2Proof.Safety

/-! ## The ways of an instruction -/

/-- The states to which the data accesses of an instruction lead from s. A write is one that the protection permits; the loads of
DISPOSE write their registers between the accesses. -/
inductive Accesses (s : State) : State → Prop
  | start : Accesses s s
  | read {u : State} (h : Accesses s u) (a : Word) (n : Nat) : Accesses s (u.afterRead a n)
  | write {u : State} (h : Accesses s u) (acc : Access) (v : Word) (ok : s.violates acc = false)
      (hw : Needs acc .w) (hn : acc.size = 1 ∨ acc.size = 2 ∨ acc.size = 4) :
      Accesses s (u.busWrite acc.addr acc.size v)
  | load {u : State} (h : Accesses s u) (r : Reg) (v : Word) : Accesses s (u.writeReg r v)

/-- What the instruction i can write once its accesses are made: registers, the flags and ID, the PC, the registers of CALLT, the
HALT mode. Only a saturated operation writes SAT, and it does not clear it. -/
inductive Writes (i : Instr) (u : State) : State → Prop
  | nothing : Writes i u u
  | reg {t : State} (h : Writes i u t) (r : Reg) (v : Word) : Writes i u (t.writeReg r v)
  | pswBit {t : State} (h : Writes i u t) (k : Nat) (hk : k < 4 ∨ k = 5) (b : Bool) : Writes i u (t.setPswBit k b)
  | sat {t : State} (h : Writes i u t) (b : Bool) (hi : isSaturated i = true) (hb : t.flagSAT = true → b = true) :
      Writes i u (t.setPswBit 4 b)
  | pc {t : State} (h : Writes i u t) (v : Word) : Writes i u (t.setPc v)
  | call {t : State} (h : Writes i u t) : Writes i u t.saveCall
  | halt {t : State} (h : Writes i u t) : Writes i u { t with halted := true }
  | free {t : State} (h : Writes i u t) (n : Nat) : Writes i u { t with free := n }

/-- The ways in which the instruction i can end from s. -/
inductive ExecTo (i : Instr) (s : State) : State → Prop
  | completes {u t : State} (h : Accesses s u) (hw : Writes i u t) : ExecTo i s t
  | violation {u : State} (h : Accesses s u) (acc : Access) : ExecTo i s (u.takeMdp acc)
  | error {u : State} (h : Accesses s u) (e : AccessError) : ExecTo i s (u.takeError e)
  | raises {u : State} (hi : isSoftwareException i = true) (h : Accesses s u) (c : Cause) : ExecTo i s (u.take c)
  | returns {u : State} (hi : isReturn i = true) (hu : u = s ∨ u = s.notifyEnd) (ret v : Word) : ExecTo i s (u.restore ret v)
  | ldsr (r : Reg) (n : RegId) (hi : i = .ldsr r n) : ExecTo i s ((s.ldsrTo n (s.readReg r)).advance 4)

/-! ## The accesses change general registers, memory and what the platform sees -/

/-- Registers, memory and the platform's record may differ, nothing else. -/
def OnlyAccessed (s u : State) : Prop := OnlyAsked { s with gr := u.gr, mem := u.mem } u

theorem onlyAccessed_refl (s : State) : OnlyAccessed s s := rfl

theorem onlyAccessed_of_onlyAsked {s t u : State} (h : OnlyAccessed s t) (g : OnlyAsked t u) : OnlyAccessed s u := by
  unfold OnlyAccessed OnlyAsked at *
  rw [g]
  generalize u.answers = answers, u.events = events
  rw [h]

theorem onlyAccessed_of_onlyStored {s t u : State} {a : Word} {n : Nat} (h : OnlyAccessed s t) (g : OnlyStored a n t u) :
    OnlyAccessed s u := by
  obtain ⟨-, stored⟩ := g
  unfold OnlyAccessed OnlyAsked at *
  rw [stored]
  generalize u.answers = answers, u.events = events, u.mem = mem
  rw [h]

theorem onlyAccessed_writeReg {s t : State} (h : OnlyAccessed s t) (r : Reg) (v : Word) :
    OnlyAccessed s (t.writeReg r v) := by
  unfold State.writeReg
  split
  · exact h
  · unfold OnlyAccessed OnlyAsked at *
    rw [h]

theorem Accesses.onlyAccessed {s u : State} (h : Accesses s u) : OnlyAccessed s u := by
  induction h with
  | start => exact onlyAccessed_refl s
  | read _ a n ih => exact onlyAccessed_of_onlyAsked ih (onlyAsked_afterRead _ a n)
  | write _ acc v _ _ hn ih => exact onlyAccessed_of_onlyStored ih (onlyStored_busWrite _ _ _ v hn)
  | load _ r v ih => exact onlyAccessed_writeReg ih r v

/-- The protection judges an access after other accesses as it did before them. -/
theorem Accesses.violates {s u : State} (h : Accesses s u) (acc : Access) : u.violates acc = s.violates acc :=
  violates_of_asked acc h.onlyAccessed

/-! ## What the rest of an instruction writes -/

section

variable {i : Instr} {s u t : State}

theorem Writes.advance (h : Writes i u t) (n : Nat) : Writes i u (t.advance n) := h.pc _

theorem Writes.withFlags (h : Writes i u t) (f : Flags) : Writes i u (t.withFlags f) :=
  (((h.pswBit 3 (by omega) _).pswBit 2 (by omega) _).pswBit 1 (by omega) _).pswBit 0 (by omega) _

theorem Writes.withSatFlags (h : Writes i u t) (f : Flags) (hi : isSaturated i = true) :
    Writes i u (t.withSatFlags f) := by
  refine (h.withFlags f).sat _ hi fun hsat => ?_
  rw [State.flagSAT, withFlags_bit] at hsat
  rw [show t.flagSAT = true from hsat, Bool.true_or]

/-- The end of most instructions: a register, then on to the next instruction. -/
theorem Writes.regOn (h : Writes i u t) (r : Reg) (v : Word) (n : Nat) : Writes i u ((t.writeReg r v).advance n) :=
  (h.reg r v).advance n

theorem Writes.divide (s : State) (d : Division) (r w : Reg) (n : Nat) :
    Writes i s ((s.divideInto d r w).advance n) := by
  unfold State.divideInto
  split
  · exact ((((Writes.nothing.withFlags _).reg _ _).reg _ _).free _).advance n
  · exact ((((Writes.nothing.withFlags _).reg _ _).reg _ _).free _).advance n

theorem Writes.stsr (s : State) (n : RegId) (dst : Reg) : Writes i s ((s.stsrFrom n dst).advance 4) := by
  unfold State.stsrFrom
  split
  · exact ((Writes.nothing.reg _ _).free _).advance 4
  · exact Writes.nothing.regOn _ _ 4
  · exact ((Writes.nothing.reg _ _).free _).advance 4

/-! ## Each shared operation is one of the ways -/

/-- An instruction without a data access. -/
theorem ExecTo.computes (h : Writes i s t) : ExecTo i s t := .completes .start h

/-- A checked access. -/
theorem ExecTo.access {acc : Access} (h : s.violates acc = false → ExecTo i s t) : ExecTo i s (s.access acc t) := by
  unfold State.access
  cases hv : s.violates acc with
  | true => exact .violation .start acc
  | false => exact h hv

theorem ExecTo.reading {a : Word} {n : Nat} {rest : State → State} (h : Accesses s u)
    (hr : Accesses s (u.afterRead a n) → ExecTo i s (rest (u.afterRead a n))) : ExecTo i s (u.reading a n rest) := by
  unfold State.reading
  split
  · exact .error (h.read a n) _
  · exact hr (h.read a n)

theorem ExecTo.writing {acc : Access} {v : Word} {rest : State → State} (h : Accesses s u)
    (ok : s.violates acc = false) (hw : Needs acc .w) (hn : acc.size = 1 ∨ acc.size = 2 ∨ acc.size = 4)
    (hr : Accesses s (u.busWrite acc.addr acc.size v) → ExecTo i s (rest (u.busWrite acc.addr acc.size v))) :
    ExecTo i s (u.writing acc.addr acc.size v rest) := by
  unfold State.writing
  split
  · exact .error (h.write acc v ok hw hn) _
  · exact hr (h.write acc v ok hw hn)

/-- A load: a checked read, a register, and on. -/
theorem ExecTo.load (acc : Access) (r : Reg) (v : Word) (n : Nat) :
    ExecTo i s (s.access acc (s.reading acc.addr acc.size fun t => t.load r v n)) :=
  .access fun _ => .reading .start fun h => .completes h (Writes.nothing.regOn r v n)

/-- A store: a checked write, and on. -/
theorem ExecTo.store (a : Word) (size : Nat) (sp : Bool) (v : Word) (n : Nat) (hn : size = 1 ∨ size = 2 ∨ size = 4) :
    ExecTo i s (s.access (storeAccess a size sp) (s.writing a size v fun t => t.advance n)) :=
  .access fun ok => .writing (acc := storeAccess a size sp) .start ok (.inl rfl) hn
    fun h => .completes h (Writes.nothing.advance n)

/-- A bit instruction that writes back: a checked read and a write under the same check. -/
theorem ExecTo.modifyBit (op : BitOp) (a : Word) (sp : Bool) (k n : Nat) :
    ExecTo i s (s.access (modifyAccess a 1 sp) (s.modifyBit op a k n)) :=
  .access fun ok => .reading .start fun h => .writing (acc := modifyAccess a 1 sp) h ok (.inr (.inr rfl)) (.inl rfl)
    fun h => .completes h ((Writes.nothing.pswBit 0 (by omega) _).advance n)

theorem ExecTo.readBit (acc : Access) (a : Word) (k n : Nat) : ExecTo i s (s.access acc (s.readBit a k n)) :=
  .access fun _ => .reading .start fun h => .completes h ((Writes.nothing.pswBit 0 (by omega) _).advance n)

/-- The stores of PREPARE, each under its own check. -/
theorem accesses_pushRegs (L : List Reg) (adr : Word) (h : Accesses s u) : Accesses s (pushRegs L adr u).state := by
  induction L generalizing adr u with
  | nil => exact h
  | cons r L ih =>
    unfold pushRegs
    cases hv : u.violates (pushAccess (wordAlign (adr - 4))) with
    | true => exact h
    | false =>
      have stored := h.write (pushAccess (wordAlign (adr - 4))) (u.readReg r) ((h.violates _).symm.trans hv)
        (.inr (.inl rfl)) (.inr (.inr rfl))
      simp only [Bool.false_eq_true, if_false]
      split
      · exact stored
      · exact ih (adr - 4) stored

/-- The loads of DISPOSE, each into its register. -/
theorem accesses_popRegs (L : List Reg) (adr : Word) (h : Accesses s u) : Accesses s (popRegs L adr u).state := by
  induction L generalizing adr u with
  | nil => exact h
  | cons r L ih =>
    unfold popRegs
    split
    · exact h
    · split
      · exact h.read _ _
      · exact ih (adr + 4) ((h.read _ _).load r _)

theorem ExecTo.finish {run : StackRun} {rest : State → Word → State} (h : Accesses s run.state)
    (hr : Writes i run.state (rest run.state run.adr)) : ExecTo i s (run.finish rest) := by
  unfold StackRun.finish
  split
  · exact .violation h _
  · exact .error h _
  · exact .completes h hr

end

/-! ## Every instruction -/

/-- Every instruction ends in one of the ways. -/
theorem execTo_of_exec {i : Instr} {s t : State} (h : exec i s = .next t) : ExecTo i s t := by
  cases i with
  | nop | synce | syncm | syncp => cases h; exact .computes (Writes.nothing.advance _)
  | halt => cases h; exact .computes (Writes.nothing.advance 4).halt
  | di | ei => cases h; exact .computes ((Writes.nothing.pswBit 5 (.inr rfl) _).advance 4)
  | mov | movImm5 | movImm32 | movea | movhi | sxb | sxh | zxb | zxh | setf | sasf | cmov | cmovImm5 | mulh | mulhImm5
  | mulhi => cases h; exact .computes (Writes.nothing.regOn _ _ _)
  | mul | mulImm9 | mulu | muluImm9 | mac | macu =>
    cases h; exact .computes ((Writes.nothing.reg _ _).regOn _ _ _)
  | add | addImm5 | addi | adf | sub | subr | sbf | and | andi | or | ori | xor | xori | not | shl | shlImm5 | shl3 | shr
  | shrImm5 | shr3 | sar | sarImm5 | sar3 | bsw | bsh | hsw | hsh | sch0l | sch0r | sch1l | sch1r =>
    cases h; exact .computes ((Writes.nothing.withFlags _).regOn _ _ _)
  | cmp | cmpImm5 | tst => cases h; exact .computes ((Writes.nothing.withFlags _).advance _)
  | satadd | sataddImm5 | satadd3 | satsub | satsub3 | satsubi | satsubr =>
    cases h; exact .computes ((Writes.nothing.withSatFlags _ rfl).regOn _ _ _)
  | div | divu | divq | divqu | divh3 | divhu => cases h; exact .computes (Writes.divide s _ _ _ 4)
  | divh => cases h; exact .computes ((((Writes.nothing.withFlags _).reg _ _).free _).advance 2)
  | stsr => cases h; exact .computes (Writes.stsr s _ _)
  | ldsr r n => cases h; exact .ldsr r n rfl
  | bcond =>
    cases h
    refine .computes ?_
    split
    · exact Writes.nothing.pc _
    · exact Writes.nothing.advance _
  | jmp | jmpDisp32 | jrDisp22 | jrDisp32 => cases h; exact .computes (Writes.nothing.pc _)
  | jarlDisp22 | jarlDisp32 => cases h; exact .computes ((Writes.nothing.reg _ _).pc _)
  | rie | rieImm | fetrap | trap => cases h; exact .raises rfl .start _
  | syscall => cases h; exact .reading .start fun read => .raises rfl read _
  | ctret => cases h; exact .returns rfl (.inl rfl) _ _
  | eiret | feret => cases h; exact .returns rfl (.inr rfl) _ _
  | reti =>
    cases h
    split
    · exact .returns rfl (.inr rfl) _ _
    · exact .returns rfl (.inr rfl) _ _
  | ldB | ldBu | ldBDisp23 | ldBuDisp23 | sldB | sldBu => cases h; exact .load (loadAccess _ 1 _) _ _ _
  | ldH | ldHu | ldHDisp23 | ldHuDisp23 | sldH | sldHu => cases h; exact .load (loadAccess _ 2 _) _ _ _
  | ldW | ldWDisp23 | sldW => cases h; exact .load (loadAccess _ 4 _) _ _ _
  | stB | stH | stW | stBDisp23 | stHDisp23 | stWDisp23 | sstB | sstH | sstW =>
    cases h; exact .store _ _ _ _ _ (by decide)
  | set1 | set1Reg | not1 | not1Reg | clr1 | clr1Reg => cases h; exact .modifyBit _ _ _ _ _
  | tst1 | tst1Reg => cases h; exact .readBit _ _ _ _
  | caxi R =>
    cases h
    exact .access fun ok => .reading .start fun read =>
      .writing (acc := modifyAccess (s.caxiAddr R) 4 (isSp R)) read ok (.inr (.inr rfl)) (.inr (.inr rfl))
        fun written => .completes written ((Writes.nothing.withFlags _).regOn _ _ _)
  | callt => cases h; exact .access fun _ => .reading .start fun read => .completes read (Writes.nothing.call.pc _)
  | switch => cases h; exact .access fun _ => .reading .start fun read => .completes read (Writes.nothing.pc _)
  | prepare => cases h; exact .finish (accesses_pushRegs _ _ .start) (Writes.nothing.regOn _ _ _)
  | prepareSp | prepareImm16 | prepareImm16Hi | prepareImm32 =>
    cases h; exact .finish (accesses_pushRegs _ _ .start) ((Writes.nothing.reg _ _).regOn _ _ _)
  | dispose => cases h; exact .finish (accesses_popRegs _ _ .start) (Writes.nothing.regOn _ _ _)
  | disposeJmp => cases h; exact .finish (accesses_popRegs _ _ .start) ((Writes.nothing.reg _ _).pc _)

end Sys2Proof.Instructions
end

section
/-! # LDSR and STSR (R463, R468, R560 to R563)

What LDSR writes is told by the register that the number names: most registers by SysRegs.store, PSW, MPM, MPC and SW_CTL by rules
of their own. Reading every register after each of these writes gives the statements. -/

namespace Sys2Proof.SystemRegisters

open Sys2Proof Sys2Proof.Machine Sys2Proof.Laws Sys2Proof.Safety

/-! ## Which rule writes a register -/

/-- The registers that have a write rule of their own. -/
def ownRule : List SysReg := [.psw, .mpm, .mpc, .swCtl]

theorem exec_ldsr_trusted {s : State} (r : Reg) (n : RegId) (h : s.pswNPV = false) :
    exec (.ldsr r n) s = .next ((s.ldsrTrusted (resolve s.sys.bsel n) (s.readReg r)).advance 4) := by
  change Host.Outcome.next ((s.ldsrTo n (s.readReg r)).advance 4) = _
  rw [State.ldsrTo, h]
  rfl

theorem exec_ldsr_untrusted {s : State} (r : Reg) (n : RegId) (h : s.pswNPV = true) :
    exec (.ldsr r n) s = .next ((s.ldsrUntrusted (resolve s.sys.bsel n) (s.readReg r)).advance 4) := by
  change Host.Outcome.next ((s.ldsrTo n (s.readReg r)).advance 4) = _
  rw [State.ldsrTo, h]
  rfl

/-- Without the protection function a register of its group is not written. -/
theorem writeSys_ignored {s : State} {q : SysReg} (v : Word) (hg : q.protectionGroup = true)
    (hp : s.product.protectionPresent = false) : s.writeSys q v = s := by
  simp [State.writeSys, hg, hp]

theorem writeSys_store {s : State} {q : SysReg} (v : Word) (hq : q ∉ ownRule)
    (h : q.protectionGroup = false ∨ s.product.protectionPresent = true) :
    s.writeSys q v = { s with sys := s.sys.store q v } := by
  have written : (q.protectionGroup && !s.product.protectionPresent) = false := by
    rcases h with h | h <;> simp [h]
  unfold State.writeSys
  rw [written]
  cases q with
  | psw | mpm | mpc | swCtl => exact absurd hq (by decide)
  | _ => rfl

theorem writeSys_psw (s : State) (v : Word) : s.writeSys .psw v = s.writePsw v := rfl

theorem writeSys_mpm {s : State} (v : Word) (h : s.product.protectionPresent = true) : s.writeSys .mpm v = s.writeMpm v := by
  simp [State.writeSys, h]

theorem writeSys_mpc {s : State} (v : Word) (h : s.product.protectionPresent = true) : s.writeSys .mpc v = s.writeMpc v := by
  simp [State.writeSys, h]

theorem writeSys_swCtl (s : State) (v : Word) : s.writeSys .swCtl v = s.writeSwCtl v := rfl

/-- In the NT state every number but those of CTBP and PSW is blocked. -/
theorem ldsrUntrusted_blocked {s : State} {q : Option SysReg} (v : Word) (hc : q ≠ some .ctbp) (hp : q ≠ some .psw) :
    s.ldsrUntrusted q v = s.recordSysViolation := by
  unfold State.ldsrUntrusted
  split
  · exact absurd rfl hc
  · exact absurd rfl hp
  · rfl

/-! ## Reading after writing -/

/-- The registers but PSW are read from the system registers, the free counter and the product. -/
theorem readSys_congr {s u : State} {q : SysReg} (hs : u.sys = s.sys) (hf : u.free = s.free) (hp : u.product = s.product)
    (hq : q ≠ .psw) : u.readSys q = s.readSys q := by
  cases q with
  | psw => exact absurd rfl hq
  | mpm => simp only [State.readSys, State.mpm, hs, hp]
  | dir => simp only [State.readSys, hf]
  | _ => simp only [State.readSys, hs]

/-- The register that SysRegs.store writes. -/
theorem readSys_store_same (s : State) {q : SysReg} (v : Word) (hq : q ∉ ownRule) :
    ({ s with sys := s.sys.store q v } : State).readSys q = ldsrValue q v (s.readSys q) := by
  cases q with
  | psw | mpm | mpc | swCtl => exact absurd hq (by decide)
  | dbg n => exact Vector.getElem_set_self n.isLt
  | paL n => exact Vector.getElem_set_self n.isLt
  | paU n => exact Vector.getElem_set_self n.isLt
  | _ => rfl

/-- SysRegs.store leaves the fields of the other registers. -/
theorem readSys_store_other (s : State) {p q : SysReg} (v : Word) (h : p ≠ q) :
    ({ s with sys := s.sys.store q v } : State).readSys p = s.readSys p := by
  have ne {n : Nat} {i j : Fin n} (hij : i ≠ j) : j.val ≠ i.val := fun e => hij (Fin.ext e.symm)
  cases q with
  | dbg j =>
    cases p with
    | dbg i => exact Vector.getElem_set_ne j.isLt i.isLt (ne fun e => h (by rw [e]))
    | _ => rfl
  | paL j =>
    cases p with
    | paL i => exact Vector.getElem_set_ne j.isLt i.isLt (ne fun e => h (by rw [e]))
    | _ => rfl
  | paU j =>
    cases p with
    | paU i => exact Vector.getElem_set_ne j.isLt i.isLt (ne fun e => h (by rw [e]))
    | _ => rfl
  | _ =>
    -- Off the diagonal, which h excludes, the field that is read is not the field that is written.
    cases p with
    | _ => first | rfl | exact absurd rfl h

theorem sysExcept_store (s : State) (q : SysReg) (v : Word) :
    SysExcept [q] s ({ s with sys := s.sys.store q v } : State) :=
  fun _ hp => readSys_store_other s v (by simpa using hp)

theorem sysExcept_psw {s u : State} (hs : u.sys = s.sys) (hf : u.free = s.free) (hp : u.product = s.product) :
    SysExcept [.psw] s u := fun _ hq => readSys_congr hs hf hp (by simpa using hq)

/-- What an LDSR leaves that writes system registers and nothing else. -/
theorem ldsr_frames (s : State) (y : SysRegs) :
    LdsrFrame s (({ s with sys := y } : State).advance 4) ∧ EnvSame s (({ s with sys := y } : State).advance 4) :=
  ⟨ldsrFrame_of s { s with sys := y } rfl rfl ⟨rfl, rfl, rfl, rfl, rfl⟩ rfl rfl, rfl, rfl, rfl, rfl, rfl, rfl, rfl⟩

/-! ## LDSR in the T state -/

/-- Settles O48: the register takes its bits, or the write is ignored, or there is no register. -/
theorem ldsrWritesRegister : Obligations.LdsrWritesRegister := by
  intro s r n trusted
  have run := exec_ldsr_trusted r n trusted
  obtain ⟨frame, env⟩ := ldsr_frames s s.sys
  refine ⟨fun q named hq taken => ?stored, fun q named group absent => ?ignored, fun reserved => ?reserved⟩
  case stored =>
    rw [named, State.ldsrTrusted, writeSys_store _ hq taken] at run
    obtain ⟨frame, env⟩ := ldsr_frames s (s.sys.store q (s.readReg r))
    exact ⟨_, run, readSys_store_same s _ hq, sysExcept_store s q _, frame, env⟩
  case ignored =>
    rw [named, State.ldsrTrusted, writeSys_ignored _ group absent] at run
    exact ⟨_, run, fun _ _ => rfl, frame, env⟩
  case reserved =>
    rw [reserved] at run
    exact ⟨_, run, fun _ _ => rfl, frame, env⟩

/-! ### PSW -/

theorem writePsw_of_same {s : State} {v : Word} (h : ({ s with psw := s.ldsrPsw v } : State).pswIMP = s.pswIMP) :
    s.writePsw v = { s with psw := s.ldsrPsw v } := if_pos h

theorem writePsw_of_change {s : State} {v : Word} (h : ({ s with psw := s.ldsrPsw v } : State).pswIMP ≠ s.pswIMP) :
    s.writePsw v = { s with psw := s.ldsrPsw v, impOld := s.impInForce, impLag := s.product.impDelay } := if_neg h

/-- LDSR to the PSW writes the PSW and the lag of IMP. -/
theorem writePsw_only (s : State) (v : Word) : s.writePsw v =
    { s with psw := s.ldsrPsw v, impOld := (s.writePsw v).impOld, impLag := (s.writePsw v).impLag } := by
  by_cases h : ({ s with psw := s.ldsrPsw v } : State).pswIMP = s.pswIMP
  · rw [writePsw_of_same h]
  · rw [writePsw_of_change h]

theorem writePsw_psw (s : State) (v : Word) : (s.writePsw v).psw = s.ldsrPsw v := by rw [writePsw_only]

theorem writePsw_pswIMP (s : State) (v : Word) :
    (s.writePsw v).pswIMP = ({ s with psw := s.ldsrPsw v } : State).pswIMP := by
  rw [State.pswIMP, writePsw_psw]; rfl

/-- The IMP in force after LDSR wrote the PSW. -/
theorem writePsw_imp (s : State) (v : Word) :
    ((s.writePsw v).pswIMP = s.pswIMP → (s.writePsw v).impLag = s.impLag ∧ (s.writePsw v).impOld = s.impOld) ∧
    ((s.writePsw v).pswIMP ≠ s.pswIMP → (s.writePsw v).impLag = s.product.impDelay ∧ (s.writePsw v).impOld = s.impInForce ∧
      (s.writePsw v).impInForce = if s.product.impDelay = 0 then (s.writePsw v).pswIMP else s.impInForce) ∧
    (s.product.impDelay = 0 → s.impLag = 0 → (s.writePsw v).impInForce = (s.writePsw v).pswIMP) := by
  rw [writePsw_pswIMP]
  by_cases h : ({ s with psw := s.ldsrPsw v } : State).pswIMP = s.pswIMP
  · rw [writePsw_of_same h]
    exact ⟨fun _ => ⟨rfl, rfl⟩, absurd h, fun _ lag => if_pos lag⟩
  · rw [writePsw_of_change h]
    exact ⟨fun e => absurd e h, fun _ => ⟨rfl, rfl, rfl⟩, fun delay _ => if_pos delay⟩

theorem writePsw_frame (s : State) (v : Word) : LdsrFrame s ((s.writePsw v).advance 4) := by
  rw [writePsw_only]
  exact ldsrFrame_of s { s with psw := _, impOld := _, impLag := _ } rfl rfl ⟨rfl, rfl, rfl, rfl, rfl⟩ rfl rfl

/-- The bits of the PSW that LDSR writes in the T state, grouped as R42 does. -/
theorem ldsrPsw_bits (s : State) (v : Word) :
    (∀ k, k < 8 → (s.ldsrPsw v).getLsbD k = v.getLsbD k) ∧
      (s.ldsrPsw v).getLsbD 16 = (s.mpe && v.getLsbD 16) ∧ (s.ldsrPsw v).getLsbD 17 = (s.mpe && v.getLsbD 17) ∧
      (s.ldsrPsw v).getLsbD 18 = (s.mpe && s.aue && v.getLsbD 18) ∧
      (∀ k, 9 ≤ k → k ≤ 11 → (s.ldsrPsw v).getLsbD k = s.psw.getLsbD k) ∧
      ∀ k, k = 8 ∨ (12 ≤ k ∧ k ≤ 15) ∨ 19 ≤ k → (s.ldsrPsw v).getLsbD k = false := by
  simp only [ldsrPsw_bit]
  refine ⟨fun k hk => if_pos hk, rfl, rfl, rfl, fun k h9 h11 => ?_, fun k hk => ?_⟩
  · rw [if_neg (by omega), if_pos (by omega)]
  · rw [if_neg (by omega), if_neg (by omega), if_neg (by omega), if_neg (by omega)]

/-- The bits of the PSW that LDSR writes in the NT state. -/
theorem writePswLow_bit (s : State) (v : Word) (k : Nat) :
    (s.writePswLow v).psw.getLsbD k = if k < 6 then v.getLsbD k else s.psw.getLsbD k := by
  simp only [State.writePswLow, BitVec.getLsbD_or, BitVec.getLsbD_and, mask_FFC0_bit, mask_3F_bit]
  by_cases h : k < 6
  · simp [h, Nat.not_le_of_lt h]
  · by_cases h32 : k < 32
    · simp [h, h32, Nat.le_of_not_lt h]
    · simp [h, h32, BitVec.getLsbD_of_ge _ _ (Nat.le_of_not_lt h32)]

/-- Settles O49: the bits in both states, and the lag of IMP in the T state. -/
theorem ldsrWritesPsw : Obligations.LdsrWritesPsw := by
  rintro s r n v rfl named
  refine ⟨fun trusted => ?trusted, fun untrusted => ?untrusted⟩
  case trusted =>
    have run := exec_ldsr_trusted r n trusted
    rw [named, State.ldsrTrusted, writeSys_psw] at run
    obtain ⟨low, imp, dmp, npv, debug, zero⟩ := ldsrPsw_bits s (s.readReg r)
    obtain ⟨same, change, atOnce⟩ := writePsw_imp s (s.readReg r)
    rw [← writePsw_psw] at low imp dmp npv debug zero
    have except : SysExcept [.psw] s ((s.writePsw (s.readReg r)).advance 4) := by
      rw [writePsw_only]; exact sysExcept_psw rfl rfl rfl
    exact ⟨_, run, low, imp, dmp, npv, debug, zero, same, change, atOnce, except, writePsw_frame s _⟩
  case untrusted =>
    have run := exec_ldsr_untrusted r n untrusted
    rw [named] at run
    refine ⟨_, run, fun k hk => ?_, fun k hk => ?_, ⟨rfl, rfl, rfl, rfl, rfl, rfl, rfl⟩, sysExcept_psw rfl rfl rfl,
      ldsrFrame_of s (s.writePswLow _) rfl rfl ⟨rfl, rfl, rfl, rfl, rfl⟩ rfl rfl⟩
    · exact (writePswLow_bit s _ k).trans (if_pos hk)
    · exact (writePswLow_bit s _ k).trans (if_neg (by omega))

/-! ### MPM, MPC and SW_CTL -/

/-- A bit that MPM does not allow is 0 in a legal PSW. -/
theorem psw_bit_of_legal {s : State} (h : legalPsw s.mpm s.psw = s.psw) (k : Nat) :
    s.psw.getLsbD k = (s.psw.getLsbD k && (decide (k < 8 ∨ (9 ≤ k ∧ k < 12)) || (s.mpe && decide (k = 16 ∨ k = 17))
      || (s.mpe && s.aue && decide (k = 18)))) := by
  have bits := legalPsw_bit s.mpm s.psw k
  rwa [h] at bits

/-- Only IMP, DMP and NPV depend on MPM. -/
theorem legalPsw_except {s : State} (h : legalPsw s.mpm s.psw = s.psw) (m : Word) {k : Nat} (hk : k ∉ [16, 17, 18]) :
    (legalPsw m s.psw).getLsbD k = s.psw.getLsbD k := by
  have h16 : k ≠ 16 ∧ k ≠ 17 ∧ k ≠ 18 := by simpa using hk
  rw [legalPsw_bit, psw_bit_of_legal h k]
  simp [h16]

theorem clearAreas_bit (paL : Vector Word 4) (a : Fin 4) (c : Bool) (k : Nat) :
    ((if c then clearAreas paL else paL)[a]).getLsbD k = (paL[a].getLsbD k && !(c && decide (k = 0))) := by
  cases c with
  | false => simp
  | true =>
    have mapped : (clearAreas paL)[a] = setBit paL[a] 0 false := Vector.getElem_map ..
    rw [if_pos rfl, mapped, getLsbD_setBit]
    by_cases h0 : k = 0 <;> simp [h0]

/-- LDSR to MPC writes the lower area registers. -/
theorem writeMpc_eq (s : State) (v : Word) :
    s.writeMpc v = { s with sys := { s.sys with paL := if v.getLsbD 0 then clearAreas s.sys.paL else s.sys.paL } } := by
  unfold State.writeMpc
  split <;> rfl

/-- LDSR to SW_CTL writes EH_CFG and EH_BASE. -/
theorem writeSwCtl_eq (s : State) (v : Word) : s.writeSwCtl v = { s with sys := { s.sys with
    ehCfg := if v.getLsbD 0 then s.sys.swCfg &&& 1 else s.sys.ehCfg
    ehBase := if v.getLsbD 0 then baseMask s.sys.swBase else s.sys.ehBase } } := by
  unfold State.writeSwCtl
  split <;> rfl

theorem sysExcept_mpm (s : State) (v : Word) : SysExcept [.psw, .mpm] s ((s.writeMpm v).advance 4) := by
  intro q hq
  cases q with
  | psw | mpm => exact absurd hq (by decide)
  | _ => rfl

theorem sysExcept_paL (s : State) (paL : Vector Word 4) :
    SysExcept [.paL 0, .paL 1, .paL 2, .paL 3] s { s with sys := { s.sys with paL := paL } } := by
  intro q hq
  cases q with
  | paL a =>
    refine absurd ?_ hq
    revert a
    decide
  | _ => rfl

theorem sysExcept_handlers (s : State) (cfg base : Word) :
    SysExcept [.ehCfg, .ehBase] s { s with sys := { s.sys with ehCfg := cfg, ehBase := base } } := by
  intro q hq
  cases q with
  | ehCfg | ehBase => exact absurd hq (by decide)
  | _ => rfl

/-- Settles O50: each of the three rules, with what the invariant says of the bits that it does not write. -/
theorem ldsrWritesControlRegisters : Obligations.LdsrWritesControlRegisters := by
  rintro s r n v rfl inv trusted
  have run := exec_ldsr_trusted r n trusted
  refine ⟨fun named present => ?mpm, fun named present => ?mpc, fun named => ?swCtl⟩
  case mpm =>
    rw [named, State.ldsrTrusted, writeSys_mpm _ present] at run
    have bit (k : Nat) := legalPsw_bit (s.readReg r) s.psw k
    refine ⟨_, run, if_pos present, (bit 16).trans ?_, (bit 17).trans ?_, (bit 18).trans ?_,
      fun k hk => legalPsw_except inv.psw _ hk, rfl, rfl, sysExcept_mpm s _,
      ldsrFrame_of s (s.writeMpm _) rfl rfl ⟨rfl, rfl, rfl, rfl, rfl⟩ rfl rfl⟩
    all_goals simp [State.pswIMP, State.pswDMP, State.pswNPV, Bool.and_comm]
  case mpc =>
    rw [named, State.ldsrTrusted, writeSys_mpc _ present, writeMpc_eq] at run
    obtain ⟨frame, env⟩ := ldsr_frames s _
    exact ⟨_, run, fun a k => clearAreas_bit s.sys.paL a _ k, inv.sys.mpc, sysExcept_paL s _, frame, env⟩
  case swCtl =>
    rw [named, State.ldsrTrusted, writeSys_swCtl, writeSwCtl_eq, inv.sys.swCfg] at run
    obtain ⟨frame, env⟩ := ldsr_frames s _
    exact ⟨_, run, rfl, rfl, inv.sys.swCtl, sysExcept_handlers s _ _, frame, env⟩

/-! ## LDSR in the NT state -/

/-- A blocked LDSR writes the record of system register violations. -/
theorem recordSysViolation_eq (s : State) : s.recordSysViolation = { s with sys := { s.sys with
    vsecr := BitVec.ofNat 32 (min (s.sys.vsecr.toNat % 256 + 1) 255)
    vstid := if s.sys.vsecr = 0 then s.sys.tid else s.sys.vstid
    vsadr := if s.sys.vsecr = 0 then s.pc else s.sys.vsadr } } := by
  have count : (byteOf s.sys.vsecr 0).toNat = s.sys.vsecr.toNat % 256 := by simp [byteOf, BitVec.extractLsb'_toNat]
  rw [State.recordSysViolation, count]
  split <;> rfl

theorem sysExcept_record (s : State) (count tid adr : Word) : SysExcept [.vsecr, .vstid, .vsadr] s
    { s with sys := { s.sys with vsecr := count, vstid := tid, vsadr := adr } } := by
  intro q hq
  cases q with
  | vsecr | vstid | vsadr => exact absurd hq (by decide)
  | _ => rfl

/-- Settles O51: CTBP by its write rule, any other number by the record. -/
theorem ldsrBlockedAndRecorded : Obligations.LdsrBlockedAndRecorded := by
  intro s r n untrusted
  have run := exec_ldsr_untrusted r n untrusted
  refine ⟨fun named => ?ctbp, fun notCtbp notPsw => ?blocked⟩
  case ctbp =>
    rw [named] at run
    obtain ⟨frame, env⟩ := ldsr_frames s (s.sys.store .ctbp (s.readReg r))
    exact ⟨_, run, rfl, sysExcept_store s .ctbp _, frame, env⟩
  case blocked =>
    rw [ldsrUntrusted_blocked _ notCtbp notPsw, recordSysViolation_eq] at run
    obtain ⟨frame, env⟩ := ldsr_frames s _
    exact ⟨_, run, rfl, rfl, rfl, sysExcept_record s _ _ _, frame, env⟩

/-! ## STSR -/

theorem stsrFrom_named {s : State} {n : RegId} {q : SysReg} (dst : Reg) (named : resolve s.sys.bsel n = some q) (hq : q ≠ .dir) :
    s.stsrFrom n dst = s.writeReg dst (s.readSys q) := by
  unfold State.stsrFrom
  rw [named]
  split
  · rename_i e; exact absurd (Option.some.inj e) hq
  · rename_i e; rw [Option.some.inj e]
  · contradiction

/-- DIR and the reserved numbers give a free value. -/
theorem stsrFrom_free {s : State} {n : RegId} (dst : Reg)
    (h : resolve s.sys.bsel n = none ∨ resolve s.sys.bsel n = some .dir) :
    s.stsrFrom n dst = { s.writeReg dst (Config.freeWord s.free) with free := s.free + 1 } := by
  unfold State.stsrFrom
  rcases h with h | h
  · rw [h]
  · rw [h]; rfl

/-- Settles O52: the contents, register by register, and the general register that receives them. -/
theorem stsrReadsRegister : Obligations.StsrReadsRegister := by
  intro s r n
  refine ⟨?contents, fun q named hq => ?named, fun h => ?free⟩
  case contents =>
    exact ⟨rfl, rfl, rfl, rfl, rfl, rfl, rfl, rfl, rfl, rfl, rfl, rfl, rfl, rfl, rfl, rfl, fun _ => rfl, rfl, rfl, rfl, rfl,
      rfl, rfl, rfl, rfl, rfl, rfl, rfl, rfl, rfl, fun _ => rfl, fun _ => rfl, rfl, rfl, rfl, rfl, rfl, rfl⟩
  case named =>
    exact ⟨_, rfl, by rw [stsrFrom_named r named hq]; exact setsReg_writeReg ..⟩
  case free =>
    refine ⟨_, rfl, ?_⟩
    obtain ⟨regs, psw, mem, sys, _, env⟩ :=
      frame_writeReg (frame_refl [r] [] s) r (Config.freeWord s.free) (List.mem_singleton_self r)
    rw [stsrFrom_free r h]
    exact ⟨regs, psw, mem, sys, env, falls_advance _ _ _ (writeReg_pc ..)⟩

/-! ## Where protection is inactive (R563, R65) -/

theorem npv_of_aue_off {s : State} (inv : Inv s) (h : s.aue = false) : s.pswNPV = false := by
  have bit := psw_bit_of_legal inv.psw 18
  rw [h] at bit
  simpa [State.pswNPV] using bit

/-- With MPE = 0 the protection bits of the PSW are 0. -/
theorem protection_of_mpe_off {s : State} (inv : Inv s) (h : s.mpe = false) :
    s.pswNPV = false ∧ s.pswDMP = false ∧ s.pswIMP = false := by
  have bit := psw_bit_of_legal inv.psw
  simp only [h] at bit
  exact ⟨by simpa [State.pswNPV] using bit 18, by simpa [State.pswDMP] using bit 17, by simpa [State.pswIMP] using bit 16⟩

theorem fetchViolates_of_imp_off {s : State} (h : s.impInForce = false) : s.fetchViolates = false := by
  simp [State.fetchViolates, State.halfViolates, h]

/-- With MPE = 0 no IMP is in force, not even an old one that lags. -/
theorem impInForce_of_mpe_off {s : State} (inv : Inv s) (h : s.mpe = false) : s.impInForce = false := by
  unfold State.impInForce
  split
  · exact (protection_of_mpe_off inv h).2.2
  · rename_i lag
    refine Classical.byContradiction fun old => ?_
    rw [inv.lag lag (by simpa using old)] at h
    contradiction

theorem mpm_of_absent {s : State} (h : s.product.protectionPresent = false) : s.mpm = 0 := by
  simp [State.mpm, h]

theorem mpe_of_absent {s : State} (h : s.product.protectionPresent = false) : s.mpe = false := by
  rw [State.mpe, mpm_of_absent h]; rfl

/-- In a product without the protection function no LDSR writes a register of the group. -/
theorem ldsr_absent {s : State} (inv : Inv s) (absent : s.product.protectionPresent = false) (r : Reg) (n : RegId) :
    ∃ t, exec (.ldsr r n) s = .next t ∧ t.readSys .vsecr = s.readSys .vsecr ∧
      ∀ q, resolve s.sys.bsel n = some q → q.protectionGroup = true → SysExcept [] s t ∧ LdsrFrame s t := by
  have trusted := (protection_of_mpe_off inv (mpe_of_absent absent)).1
  obtain ⟨store, ignore, reserved⟩ := ldsrWritesRegister s r n trusted
  cases named : resolve s.sys.bsel n with
  | none =>
    obtain ⟨t, run, except, frame, _⟩ := reserved named
    exact ⟨t, run, except .vsecr (by decide), fun _ h => nomatch h⟩
  | some q =>
    cases group : q.protectionGroup with
    | true =>
      obtain ⟨t, run, except, frame, _⟩ := ignore q named group absent
      exact ⟨t, run, except .vsecr (by decide), fun _ _ _ => ⟨except, frame⟩⟩
    | false =>
      have notGroup {P : Prop} : ∀ p, some q = some p → p.protectionGroup = true → P := by
        rintro p ⟨⟩ h
        rw [group] at h
        contradiction
      by_cases psw : q = .psw
      · obtain ⟨t, run, _, _, _, _, _, _, _, _, _, except, _⟩ :=
          (ldsrWritesPsw s r n _ rfl (psw ▸ named)).1 trusted
        exact ⟨t, run, except .vsecr (by decide), notGroup⟩
      · by_cases swCtl : q = .swCtl
        · obtain ⟨t, run, _, _, _, except, _⟩ :=
            (ldsrWritesControlRegisters s r n _ rfl inv trusted).2.2 (swCtl ▸ named)
          exact ⟨t, run, except .vsecr (by decide), notGroup⟩
        · have hq : q ∉ ownRule := by
            intro hq
            obtain rfl | rfl | rfl | rfl : q = .psw ∨ q = .mpm ∨ q = .mpc ∨ q = .swCtl := by simpa [ownRule] using hq
            · exact psw rfl
            · exact nomatch group
            · exact nomatch group
            · exact swCtl rfl
          obtain ⟨t, run, _, except, _⟩ := store q named hq (.inl group)
          refine ⟨t, run, except .vsecr ?_, notGroup⟩
          rw [List.mem_singleton]
          rintro rfl
          exact nomatch group

/-- Settles O60: the T state by AUE = 0, no violation by MPE = 0, and a product without the function has MPM = 0. -/
theorem protectionInactive : Obligations.ProtectionInactive := by
  intro s inv
  have quiet (h : s.mpe = false) : s.fetchViolates = false ∧ ∀ acc, s.violates acc = false :=
    ⟨fetchViolates_of_imp_off (impInForce_of_mpe_off inv h),
      fun acc => violates_of_dmp_off acc (protection_of_mpe_off inv h).2.1⟩
  refine ⟨fun aue => ⟨npv_of_aue_off inv aue, ?writes⟩, fun mpe => ?mpe, fun absent => ?absent⟩
  case mpe =>
    obtain ⟨npv, dmp, imp⟩ := protection_of_mpe_off inv mpe
    exact ⟨npv, dmp, imp, quiet mpe⟩
  case absent =>
    obtain ⟨fetch, data⟩ := quiet (mpe_of_absent absent)
    exact ⟨mpm_of_absent absent, fetch, data, ldsr_absent inv absent⟩
  case writes =>
    rintro r n q v rfl named taken
    have trusted := npv_of_aue_off inv aue
    obtain ⟨mpm, mpc, swCtl⟩ := ldsrWritesControlRegisters s r n _ rfl inv trusted
    have present (h : q.protectionGroup = true) : s.product.protectionPresent = true :=
      taken.resolve_left (by rw [h]; decide)
    by_cases hq : q ∈ ownRule
    · obtain rfl | rfl | rfl | rfl : q = .psw ∨ q = .mpm ∨ q = .mpc ∨ q = .swCtl := by simpa [ownRule] using hq
      · obtain ⟨t, run, low, imp, dmp, _, _, _, _, _, _, except, frame⟩ := (ldsrWritesPsw s r n _ rfl named).1 trusted
        exact ⟨t, run, frame, absurd hq, fun _ => ⟨low, imp, dmp, except⟩, nofun, nofun, nofun⟩
      · obtain ⟨t, run, value, _, _, _, _, _, _, except, frame⟩ := mpm named (present rfl)
        exact ⟨t, run, frame, absurd hq, nofun, fun _ => ⟨value, except⟩, nofun, nofun⟩
      · obtain ⟨t, run, areas, _, except, frame, _⟩ := mpc named (present rfl)
        exact ⟨t, run, frame, absurd hq, nofun, nofun,
          fun _ => ⟨fun a => (areas a 0).trans (by simp), except⟩, nofun⟩
      · obtain ⟨t, run, cfg, base, _, except, frame, _⟩ := swCtl named
        exact ⟨t, run, frame, absurd hq, nofun, nofun, nofun, fun _ => ⟨cfg, base, except⟩⟩
    · obtain ⟨t, run, value, except, frame, _⟩ := (ldsrWritesRegister s r n trusted).1 q named hq taken
      have not (p : SysReg) (hp : p ∈ ownRule) {P : Prop} : q = p → P := fun e => absurd (e ▸ hp) hq
      exact ⟨t, run, frame, fun _ => ⟨value, except⟩, not .psw (by decide), not .mpm (by decide), not .mpc (by decide),
        not .swCtl (by decide)⟩

end Sys2Proof.SystemRegisters
end

section
/-! # What every instruction keeps: r0, SAT, the protected registers, memory without write permission -/

namespace Sys2Proof.EveryInstruction

open Sys2Proof Sys2Proof.Machine Sys2Proof.Laws Sys2Proof.Safety Sys2Proof.Steps Sys2Proof.Instructions
  Sys2Proof.SystemRegisters Sys2Proof.Protection

/-! ## What LDSR can change -/

/-- LDSR writes system registers, the PSW and the lag of PSW.IMP. -/
def OnlySystem (s u : State) : Prop :=
  u = { s with sys := u.sys, psw := u.psw, impOld := u.impOld, impLag := u.impLag }

theorem onlySystem_writeSys (s : State) (q : SysReg) (v : Word) : OnlySystem s (s.writeSys q v) := by
  by_cases group : q.protectionGroup = true ∧ s.product.protectionPresent = false
  · rw [writeSys_ignored v group.1 group.2]; rfl
  · have taken : q.protectionGroup = false ∨ s.product.protectionPresent = true := by
      by_cases h : q.protectionGroup = true
      · exact .inr (by simpa using fun e => group ⟨h, e⟩)
      · exact .inl (by simpa using h)
    by_cases own : q ∈ ownRule
    · obtain rfl | rfl | rfl | rfl : q = .psw ∨ q = .mpm ∨ q = .mpc ∨ q = .swCtl := by simpa [ownRule] using own
      · rw [writeSys_psw, OnlySystem, writePsw_only]
      · rw [writeSys_mpm v (taken.resolve_left (by decide))]; rfl
      · rw [writeSys_mpc v (taken.resolve_left (by decide)), writeMpc_eq]; rfl
      · rw [writeSys_swCtl, writeSwCtl_eq]; rfl
    · rw [writeSys_store v own taken]; rfl

theorem onlySystem_ldsrTo (s : State) (n : RegId) (v : Word) : OnlySystem s (s.ldsrTo n v) := by
  unfold State.ldsrTo
  split
  · unfold State.ldsrUntrusted
    split
    · rfl
    · rfl
    · rw [recordSysViolation_eq]; rfl
  · unfold State.ldsrTrusted
    split
    · exact onlySystem_writeSys ..
    · rfl

/-! ## r0 (R21) -/

/-- r0 holds 0. -/
def ZeroHeld (s : State) : Prop := s.gr[0] = 0

theorem zeroHeld_congr {s u : State} (h : u.gr = s.gr) (hs : ZeroHeld s) : ZeroHeld u := by rw [ZeroHeld, h]; exact hs

theorem Accesses.zeroHeld {s u : State} (h : Accesses s u) (hs : ZeroHeld s) : ZeroHeld u := by
  induction h with
  | start => exact hs
  | read _ a n ih => exact zeroHeld_congr (afterRead_gr _ a n) ih
  | write _ acc v _ _ hn ih =>
    obtain ⟨-, stored⟩ := onlyStored_busWrite _ acc.addr acc.size v hn
    exact zeroHeld_congr (by rw [stored]) ih
  | load _ r v ih => exact writeReg_gr0 _ r v ih

theorem Writes.zeroHeld {i : Instr} {u t : State} (h : Writes i u t) (hu : ZeroHeld u) : ZeroHeld t := by
  induction h with
  | nothing => exact hu
  | reg _ r v ih => exact writeReg_gr0 _ r v ih
  | pswBit | sat | pc | call | halt | free => assumption

theorem exec_keeps_zeroHeld {i : Instr} {s t : State} (hs : ZeroHeld s) (h : exec i s = .next t) : ZeroHeld t := by
  cases execTo_of_exec h with
  | completes ha hw => exact Writes.zeroHeld hw (Accesses.zeroHeld ha hs)
  | violation ha | error ha | raises _ ha =>
    have held := Accesses.zeroHeld ha hs
    exact held
  | returns _ hu ret v =>
    rcases hu with rfl | rfl
    · exact hs
    · exact zeroHeld_congr (notifyEnd_gr s) hs
  | ldsr r n => exact zeroHeld_congr (by rw [advance_gr, onlySystem_ldsrTo]) hs

theorem step_keeps_zeroHeld {s t : State} (hs : ZeroHeld s) (h : step s = .next t) : ZeroHeld t := by
  cases stepTo_of_step h with
  | reset => rfl
  | wait | accept | violation | fetchError | coprocessor | reserved => exact hs
  | run i _ _ ht => exact exec_keeps_zeroHeld (s := (awake s).fetchDone.tickImp) hs ht

/-- Settles O13: reading and writing r0 by definition, and the step lemma. -/
theorem registerZeroStaysZero : Obligations.RegisterZeroStaysZero :=
  ⟨readReg_zero, writeReg_r0, fun _ _ => step_keeps_zeroHeld⟩

/-! ## SAT (R310, R318) -/

theorem Accesses.psw {s u : State} (h : Accesses s u) : u.psw = s.psw := by
  have only := h.onlyAccessed
  rw [OnlyAccessed, OnlyAsked] at only
  rw [only]

/-- What is written after the accesses sets SAT only in a saturated operation, and never clears it. -/
theorem Writes.flagSAT {i : Instr} {u t : State} (h : Writes i u t) :
    (u.flagSAT = true → t.flagSAT = true) ∧ (isSaturated i = false → t.flagSAT = u.flagSAT) := by
  induction h with
  | nothing => exact ⟨id, fun _ => rfl⟩
  | @reg t _ r v ih =>
    have same : (t.writeReg r v).flagSAT = t.flagSAT := congrArg (BitVec.getLsbD · 4) (writeReg_psw t r v)
    rwa [same]
  | @pswBit t _ k hk b ih =>
    have same : (t.setPswBit k b).flagSAT = t.flagSAT := getLsbD_setBit_other _ _ (by omega)
    rwa [same]
  | @sat t _ b hi hb ih =>
    have bit : (t.setPswBit 4 b).flagSAT = b := getLsbD_setBit_same _ _ _ (by omega)
    rw [bit]
    exact ⟨fun hu => hb (ih.1 hu), fun no => absurd hi (by rw [no]; decide)⟩
  | pc | call | halt | free => assumption

theorem take_flagSAT (s : State) (c : Cause) : (s.take c).flagSAT = s.flagSAT := acceptedPsw_bit s c 4

theorem takeMdp_flagSAT (s : State) (acc : Access) : (s.takeMdp acc).flagSAT = s.flagSAT := take_flagSAT ..

/-- LDSR to another register than the PSW leaves PSW bits 7-0: MPM clears bits 18-16. -/
theorem ldsrTo_low_bit {s : State} {n : RegId} (v : Word) {k : Nat} (hk : k < 8)
    (h : resolve s.sys.bsel n ≠ some .psw) : (s.ldsrTo n v).psw.getLsbD k = s.psw.getLsbD k := by
  unfold State.ldsrTo
  split
  · unfold State.ldsrUntrusted
    split
    · rfl
    · contradiction
    · rw [recordSysViolation_eq]
  · unfold State.ldsrTrusted
    split
    case h_2 => rfl
    case h_1 q named =>
      unfold State.writeSys
      split
      · rfl
      · split
        · exact absurd named h
        · change (legalPsw v s.psw).getLsbD k = _
          rw [legalPsw_bit, decide_eq_true (.inl hk), Bool.true_or, Bool.true_or, Bool.and_true]
        · rw [writeMpc_eq]
        · rw [writeSwCtl_eq]
        · rfl

/-- Settles O56: exceptions and LDSR to other registers leave SAT, and what is written elsewhere follows the rule. -/
theorem saturationIsCumulative : Obligations.SaturationIsCumulative := by
  intro i s t h notReturn notPsw
  have unchanged {b : Bool} (e : b = s.flagSAT) : (s.flagSAT = true → b = true) ∧ (isSaturated i = false → b = s.flagSAT) :=
    ⟨e.trans, fun _ => e⟩
  have accessed {u : State} (ha : Accesses s u) : u.flagSAT = s.flagSAT := by rw [State.flagSAT, Accesses.psw ha]; rfl
  cases execTo_of_exec h with
  | completes ha hw => rw [← accessed ha]; exact Writes.flagSAT hw
  | violation ha acc => exact unchanged ((takeMdp_flagSAT ..).trans (accessed ha))
  | error ha e => exact unchanged ((take_flagSAT ..).trans (accessed ha))
  | raises _ ha c => exact unchanged ((take_flagSAT ..).trans (accessed ha))
  | returns hi => rw [notReturn] at hi; contradiction
  | ldsr r n hi => exact unchanged (ldsrTo_low_bit _ (by omega) (notPsw r n hi))

/-! ## The NT state (R560 to R562) -/

/-- The registers that an instruction in the NT state may write without an exception, and DIR, whose value is free. -/
def unprotected : List SysReg := [.psw, .ctbp, .ctpc, .ctpsw, .vsecr, .vstid, .vsadr, .dir]

/-- PSW bits 31-6 and the protected registers are as before. -/
def ProtectedSame (s t : State) : Prop := (∀ k : Nat, 6 ≤ k → t.psw.getLsbD k = s.psw.getLsbD k) ∧ SysExcept unprotected s t

theorem sysExcept_mono {ps qs : List SysReg} {s t : State} (h : SysExcept ps s t) (hsub : ps ⊆ qs) : SysExcept qs s t :=
  fun q hq => h q fun hp => hq (hsub hp)

theorem protectedSame_of_sys {s t : State} (hpsw : ∀ k, 6 ≤ k → t.psw.getLsbD k = s.psw.getLsbD k) (hs : t.sys = s.sys)
    (hp : t.product = s.product) : ProtectedSame s t := by
  refine ⟨hpsw, fun q hq => ?_⟩
  cases q with
  | psw | dir => exact absurd hq (by decide)
  | mpm => simp only [State.readSys, State.mpm, hs, hp]
  | _ => simp only [State.readSys, hs]

theorem protectedSame_trans {s t u : State} (h : ProtectedSame s t) (g : ProtectedSame t u) : ProtectedSame s u :=
  ⟨fun k hk => (g.1 k hk).trans (h.1 k hk), fun q hq => (g.2 q hq).trans (h.2 q hq)⟩

theorem Accesses.protectedSame {s u : State} (h : Accesses s u) : ProtectedSame s u := by
  have only := h.onlyAccessed
  rw [OnlyAccessed, OnlyAsked] at only
  exact protectedSame_of_sys (fun k _ => by rw [Accesses.psw h]) (by rw [only]) (by rw [only])

theorem protectedSame_saveCall (s : State) : ProtectedSame s s.saveCall := by
  refine ⟨fun _ _ => rfl, fun q hq => ?_⟩
  cases q with
  | ctpc | ctpsw => exact absurd hq (by decide)
  | _ => rfl

theorem Writes.protectedSame {i : Instr} {u t : State} (h : Writes i u t) : ProtectedSame u t := by
  induction h with
  | nothing => exact protectedSame_of_sys (fun _ _ => rfl) rfl rfl
  | reg _ r v ih =>
    exact protectedSame_trans ih
      (protectedSame_of_sys (fun _ _ => by rw [writeReg_psw]) (writeReg_sys ..) (writeReg_product ..))
  | pswBit _ k hk b ih =>
    exact protectedSame_trans ih (protectedSame_of_sys (fun j hj => getLsbD_setBit_other _ _ (by omega)) rfl rfl)
  | sat _ b _ _ ih =>
    exact protectedSame_trans ih (protectedSame_of_sys (fun j hj => getLsbD_setBit_other _ _ (by omega)) rfl rfl)
  | pc _ _ ih | halt _ ih | free _ _ ih => exact protectedSame_trans ih (protectedSame_of_sys (fun _ _ => rfl) rfl rfl)
  | call _ ih => exact protectedSame_trans ih (protectedSame_saveCall _)

theorem protectedSame_ldsr {s : State} (untrusted : s.pswNPV = true) (r : Reg) (n : RegId) :
    ProtectedSame s ((s.ldsrTo n (s.readReg r)).advance 4) := by
  rw [State.ldsrTo, untrusted, if_pos rfl]
  unfold State.ldsrUntrusted
  split
  · exact ⟨fun _ _ => rfl, sysExcept_mono (sysExcept_store s .ctbp _) (by decide)⟩
  · exact protectedSame_of_sys (fun k hk => (writePswLow_bit s _ k).trans (if_neg (by omega))) rfl rfl
  · rw [recordSysViolation_eq]
    exact ⟨fun _ _ => rfl, sysExcept_mono (sysExcept_record s _ _ _) (by decide)⟩

/-- MDP is entered from s, once u was reached by accesses. -/
theorem enters_violation {s u : State} (h : OnlyAccessed s u) (acc : Access) :
    EntersFe 0x431 s.pc (s.sys.ehBase + 0x30) false true (violationRecorded s acc.addr acc.vmecr) u (u.takeMdp acc) := by
  have enters := takeMdp_enters u acc
  have pc : u.pc = s.pc := by rw [OnlyAccessed, OnlyAsked] at h; rw [h]
  have sys : u.sys = s.sys := by rw [OnlyAccessed, OnlyAsked] at h; rw [h]
  rwa [violationRecorded, pc, sys] at enters

/-- The exception of an access error is entered from s, once u was reached by accesses. -/
theorem enters_error {s u : State} (h : OnlyAccessed s u) (e : AccessError) :
    EntersFe (errorCode e) s.pc (s.sys.ehBase + 0x30) false false s.sys u (u.takeError e) := by
  obtain ⟨_, enters, _, _⟩ := aborted_takeError e (onlyAsked_refl u)
  have pc : u.pc = s.pc := by rw [OnlyAccessed, OnlyAsked] at h; rw [h]
  have sys : u.sys = s.sys := by rw [OnlyAccessed, OnlyAsked] at h; rw [h]
  rwa [pc, sys] at enters

/-- Settles O57: each way to end, without the ways of the returns and the software exceptions. -/
theorem untrustedStateCannotLeave : Obligations.UntrustedStateCannotLeave := by
  intro i s t untrusted notReturn notException h
  cases execTo_of_exec h with
  | completes ha hw => exact .inr (.inr (protectedSame_trans (Accesses.protectedSame ha) (Writes.protectedSame hw)))
  | violation ha acc => exact .inl ⟨acc.addr, acc.vmecr, _, ha.onlyAccessed, enters_violation ha.onlyAccessed acc⟩
  | error ha e => exact .inr (.inl ⟨e, _, ha.onlyAccessed, enters_error ha.onlyAccessed e⟩)
  | raises hi => rw [notException] at hi; contradiction
  | returns hi => rw [notReturn] at hi; contradiction
  | ldsr r n => exact .inr (.inr (protectedSame_ldsr untrusted r n))

/-! ## Write permission (R144, R146) -/

/-- A byte of an area in force with W = 1. -/
def Writable (s : State) (a : Word) : Prop := ∃ n : Fin 4, AreaCovers s n a.toNat a.toNat ∧ AreaGrants s n .w

theorem areaCovers_byte {s : State} {n : Fin 4} {lo hi x : Nat} (h : AreaCovers s n lo hi) (hlo : lo ≤ x) (hhi : x ≤ hi) :
    AreaCovers s n x x := by
  obtain ⟨enabled, valid, low, high⟩ := h
  exact ⟨enabled, valid, by omega, by omega⟩

/-- An access inside the 64 MB space whose last byte lies in an area does not wrap around. -/
theorem toNat_add_of_covered {s : State} {n : Fin 4} {acc : Access} {k : Nat} (h : AreaCovers s n acc.addr.toNat acc.last)
    (hk : k < acc.size) : (acc.addr + BitVec.ofNat 32 k).toNat = acc.addr.toNat + k := by
  obtain ⟨-, -, -, high⟩ := h
  have top : areaHigh s n < 2 ^ 32 := (s.sys.paU[n] ||| 0xF).isLt
  have bound : acc.addr.toNat + acc.size - 1 ≤ areaHigh s n := high
  rw [BitVec.toNat_add, BitVec.toNat_ofNat]
  omega

/-- Each permission that a permitted access needs is granted for each of its bytes. -/
theorem granted_of_permitted {s : State} {acc : Access} (dmp : s.pswDMP = true) (ok : s.violates acc = false) {p : Perm}
    (hp : Needs acc p) {k : Nat} (hk : k < acc.size) : ∃ n : Fin 4,
      AreaCovers s n (acc.addr + BitVec.ofNat 32 k).toNat (acc.addr + BitVec.ofNat 32 k).toNat ∧ AreaGrants s n p := by
  have permits : s.permits acc = true := by simpa [State.violates, dmp] using ok
  obtain ⟨n, covers, grants⟩ : ∃ n, AreaCovers s n acc.addr.toNat acc.last ∧ AreaGrants s n p := by
    by_cases aligned : acc.addr.toNat % acc.size = 0
    · exact ((permits_of_aligned s aligned).mp permits).2 p hp
    · obtain ⟨n, covers, grants⟩ := ((permits_of_misaligned s aligned).mp permits).2
      exact ⟨n, covers, grants p hp⟩
  have last : acc.last = acc.addr.toNat + acc.size - 1 := rfl
  refine ⟨n, ?_, grants⟩
  rw [toNat_add_of_covered covers hk]
  exact areaCovers_byte covers (by omega) (by omega)

/-- The accesses change bytes with write permission alone. -/
theorem Accesses.read8 {s u : State} (h : Accesses s u) (dmp : s.pswDMP = true) (a : Word) (ha : ¬Writable s a) :
    u.read8 a = s.read8 a := by
  induction h with
  | start => rfl
  | read _ b n ih => exact (afterRead_read8 _ b n a).trans ih
  | write _ acc v ok hw hn ih =>
    obtain ⟨except, -⟩ := onlyStored_busWrite _ acc.addr acc.size v hn
    refine (except a fun k hk e => ha ?_).trans ih
    rw [e]
    exact granted_of_permitted dmp ok hw hk
  | load _ r v ih => exact (writeReg_read8 _ r v a).trans ih

theorem Writes.read8 {i : Instr} {u t : State} (h : Writes i u t) (a : Word) : t.read8 a = u.read8 a := by
  induction h with
  | nothing => rfl
  | reg _ r v ih => exact (writeReg_read8 _ r v a).trans ih
  | pswBit | sat | pc | call | halt | free => assumption

/-- An instruction changes bytes with write permission alone. -/
theorem exec_read8 {i : Instr} {s t : State} (dmp : s.pswDMP = true) (h : exec i s = .next t) {a : Word}
    (ha : ¬Writable s a) : t.read8 a = s.read8 a := by
  cases execTo_of_exec h with
  | completes hacc hw => exact (Writes.read8 hw a).trans (Accesses.read8 hacc dmp a ha)
  | violation hacc | error hacc | raises _ hacc => exact Accesses.read8 hacc dmp a ha
  | returns _ hu ret v =>
    rcases hu with rfl | rfl
    · rfl
    · exact notifyEnd_read8 s a
  | ldsr r n => rw [advance_read8, onlySystem_ldsrTo]; rfl

/-- Settles O58: the stages before the instruction write no memory, and the instruction acts under the same protection. -/
theorem memoryChangesNeedWritePermission : Obligations.MemoryChangesNeedWritePermission := by
  intro s t a dmp h changed
  refine Classical.byContradiction fun ha => ?_
  refine changed ?_
  cases stepTo_of_step h with
  | reset | wait | accept | violation | fetchError | coprocessor | reserved => rfl
  | run i _ _ ht => exact exec_read8 (s := (awake s).fetchDone.tickImp) dmp ht ha

end Sys2Proof.EveryInstruction
end

section
/-! # The form of the machine (R21, R24, R36, R42)

The invariant Inv holds after reset, every operation keeps it, and so does every step. The work is in the masks: a value that a
register takes has its form, and a PSW that MPM allows has only bits that the saved PSWs hold. -/

namespace Sys2Proof.Form

open Sys2Proof Sys2Proof.Machine Sys2Proof.Laws Sys2Proof.Safety Sys2Proof.Steps Sys2Proof.Instructions
  Sys2Proof.SystemRegisters Sys2Proof.EveryInstruction Sys2Proof.StepStages

/-! ## Masks -/

theorem and_and_mask (v m : Word) : v &&& m &&& m = v &&& m := by rw [BitVec.and_assoc, BitVec.and_self]

theorem pswMask_bit (k : Nat) :
    (0x00070EFF : Word).getLsbD k = decide (k < 8 ∨ (9 ≤ k ∧ k < 12) ∨ (16 ≤ k ∧ k < 19)) :=
  mask_bit (p := fun k => k < 8 ∨ (9 ≤ k ∧ k < 12) ∨ (16 ≤ k ∧ k < 19)) (by decide) k

theorem paLMask_bit (k : Nat) : (0xFFFFFFF3 : Word).getLsbD k = decide (k < 32 ∧ k ≠ 2 ∧ k ≠ 3) :=
  mask_bit (p := fun k => k < 32 ∧ k ≠ 2 ∧ k ≠ 3) (by decide) k

/-- A PSW that MPM allows has only bits that EIPSW, FEPSW and CTPSW hold. -/
theorem pswMask_of_legal {m p : Word} (h : legalPsw m p = p) : p &&& 0x00070EFF = p := by
  apply BitVec.eq_of_getLsbD_eq
  intro k hk
  have bit := legalPsw_bit m p k
  rw [h] at bit
  rw [BitVec.getLsbD_and, pswMask_bit]
  grind

/-- Bits 25-4 and 1-0 with the sign copied: what PAnL takes. -/
theorem paLForm (v : Word) : sext26 (sext26 v &&& 0xFFFFFFF3) &&& 0xFFFFFFF3 = sext26 v &&& 0xFFFFFFF3 := by
  apply BitVec.eq_of_getLsbD_eq
  intro k hk
  simp only [BitVec.getLsbD_and, sext26_bit, paLMask_bit]
  grind

/-- Clearing E keeps the form of PAnL. -/
theorem paLForm_clear {w : Word} (h : sext26 w &&& 0xFFFFFFF3 = w) :
    sext26 (setBit w 0 false) &&& 0xFFFFFFF3 = setBit w 0 false := by
  apply BitVec.eq_of_getLsbD_eq
  intro k hk
  have bit : (sext26 w &&& 0xFFFFFFF3).getLsbD k = w.getLsbD k := by rw [h]
  simp only [BitVec.getLsbD_and, sext26_bit, paLMask_bit, getLsbD_setBit] at bit ⊢
  grind

theorem countForm (n : Nat) : BitVec.ofNat 32 (min n 255) &&& 0xFF = BitVec.ofNat 32 (min n 255) := by
  apply BitVec.eq_of_toNat_eq
  rw [BitVec.toNat_and, BitVec.toNat_ofNat]
  change _ &&& (2 ^ 8 - 1) = _
  rw [Nat.and_two_pow_sub_one_eq_mod]
  omega

/-- The cause that MDP records has only bits of VMECR. -/
theorem vmecrForm (acc : Access) : acc.vmecr &&& 0x7E = acc.vmecr := by
  unfold Access.vmecr
  cases acc.kind <;> cases acc.spRel <;> cases acc.misaligned <;> decide

theorem low_bits_eq {v w : Word} {m : Word} (h : v &&& m = w &&& m) {k : Nat} (hk : m.getLsbD k = true) :
    v.getLsbD k = w.getLsbD k := by
  have bit : (v &&& m).getLsbD k = (w &&& m).getLsbD k := by rw [h]
  simpa [hk] using bit

/-- Of MPM only MPE and AUE say what a PSW may hold. -/
theorem legalPsw_mpm (m p : Word) : legalPsw (m &&& 3) p = legalPsw m p := by
  have mpe : (m &&& 3).getLsbD 0 = m.getLsbD 0 := low_bits_eq (and_and_mask m 3) (by decide)
  have aue : (m &&& 3).getLsbD 1 = m.getLsbD 1 := low_bits_eq (and_and_mask m 3) (by decide)
  rw [legalPsw, legalPsw, mpe, aue]

/-! ## The parts of the invariant that PSW, MPM and the lag share -/

/-- The PSW is one that MPM allows, and an old IMP that lags needs MPE = 1. -/
structure PswForm (s : State) : Prop where
  psw : legalPsw s.mpm s.psw = s.psw
  lag : s.impLag ≠ 0 → s.impOld = true → s.mpe = true

theorem pswForm (s : State) (h : Inv s) : PswForm s := ⟨h.psw, h.lag⟩

/-- The IMP in force needs MPE = 1. -/
theorem mpe_of_impInForce {s : State} (h : PswForm s) (imp : s.impInForce = true) : s.mpe = true := by
  unfold State.impInForce at imp
  split at imp
  · have bit := psw_bit_of_legal h.psw 16
    rw [show s.psw.getLsbD 16 = true from imp] at bit
    simpa using bit
  · exact h.lag ‹_› imp

/-! ## The operations of an instruction keep the invariant -/

section

variable {s u : State}

theorem inv_onlyAsked (h : Inv s) (asked : OnlyAsked s u) : Inv u := by
  rw [asked]
  exact { h with }

theorem inv_writeReg (h : Inv s) (r : Reg) (v : Word) : Inv (s.writeReg r v) := by
  refine { r0 := writeReg_gr0 s r v h.r0, pc := ?_, psw := ?_, sys := ?_, mem := ?_, lag := ?_ }
  · rw [writeReg_pc]; exact h.pc
  · rw [State.mpm, writeReg_product, writeReg_sys, writeReg_psw]; exact h.psw
  · rw [writeReg_sys]; exact h.sys
  · rw [writeReg_mem]; exact h.mem
  · rw [writeReg_impLag, writeReg_impOld, State.mpe, State.mpm, writeReg_product, writeReg_sys]; exact h.lag

theorem inv_setPc (h : Inv s) (v : Word) : Inv (s.setPc v) := { h with pc := pcmask_pcmask v }

/-- Bits 7-0 of the PSW are legal whatever MPM is. -/
theorem inv_setPswBit (h : Inv s) {k : Nat} (hk : k < 8) (b : Bool) : Inv (s.setPswBit k b) := by
  refine { h with psw := ?_ }
  apply BitVec.eq_of_getLsbD_eq
  intro j hj
  have bit := legalPsw_bit s.mpm s.psw j
  rw [h.psw] at bit
  change (legalPsw s.mpm (setBit s.psw k b)).getLsbD j = (setBit s.psw k b).getLsbD j
  rw [legalPsw_bit, getLsbD_setBit]
  split
  · rename_i same
    rw [decide_eq_true (.inl (by omega)), Bool.true_or, Bool.true_or, Bool.and_true]
  · exact bit.symm

theorem inv_saveCall (h : Inv s) : Inv s.saveCall :=
  { h with sys := { h.sys with ctpc := sext26_pcmask _, ctpsw := pswMask_of_legal h.psw } }

theorem inv_busWrite (h : Inv s) (a : Word) {n : Nat} (v : Word) (hn : n = 1 ∨ n = 2 ∨ n = 4) : Inv (s.busWrite a n v) := by
  have written : Inv { s with mem := (s.busWrite a n v).mem } := { h with mem := wf_busWrite a n v h.mem }
  exact inv_onlyAsked written (onlyStored_busWrite s a n v hn).2

/-! ### Exceptions and returns -/

theorem sysForm_saved (h : Inv s) (c : Cause) : SysForm (s.savedContext c) := by
  unfold State.savedContext
  split
  · exact { h.sys with eipc := sext26_pcmask _, eipsw := pswMask_of_legal h.psw }
  · exact { h.sys with fepc := sext26_pcmask _, fepsw := pswMask_of_legal h.psw }

theorem savedContext_mpm (s : State) (c : Cause) : (s.savedContext c).mpm = s.sys.mpm := by
  unfold State.savedContext
  split <;> rfl

/-- Taking an exception sets bits 7-5, which are always legal, and clears others. -/
theorem legalPsw_accepted {m : Word} (h : legalPsw m s.psw = s.psw) (c : Cause) :
    legalPsw m (s.acceptedPsw c) = s.acceptedPsw c := by
  apply BitVec.eq_of_getLsbD_eq
  intro k hk
  have bit := legalPsw_bit m s.psw k
  rw [h] at bit
  rw [legalPsw_bit, acceptedPsw_bit]
  grind

theorem inv_take (h : Inv s) (c : Cause) : Inv (s.take c) := by
  have mpm : (s.take c).mpm = s.mpm := by rw [State.mpm, take_sys, savedContext_mpm]; rfl
  exact { r0 := h.r0, pc := pcmask_pcmask _, psw := by rw [mpm]; exact legalPsw_accepted h.psw c, sys := sysForm_saved h c,
          mem := h.mem, lag := fun lag => absurd rfl lag }

theorem inv_recordMemoryViolation (h : Inv s) (a : Word) {cause : Word} (hc : cause &&& 0x7E = cause) :
    Inv (s.recordMemoryViolation a cause) := { h with sys := { h.sys with vmecr := hc } }

theorem inv_takeMdp (h : Inv s) (acc : Access) : Inv (s.takeMdp acc) :=
  inv_take (inv_recordMemoryViolation h _ (vmecrForm acc)) _

theorem inv_takeMip (h : Inv s) : Inv s.takeMip := inv_take (inv_recordMemoryViolation h _ (by decide)) _

theorem inv_restore (h : Inv s) (ret v : Word) : Inv (s.restore ret v) :=
  { h with pc := pcmask_pcmask _, psw := legalPsw_legalPsw .., lag := fun lag => absurd rfl lag }

theorem onlyAsked_notifyEnd (s : State) : OnlyAsked s s.notifyEnd := by
  unfold State.notifyEnd
  split <;> rfl

/-! ### LDSR -/

/-- Every register takes a value of its form. -/
theorem sysForm_store {y : SysRegs} (h : SysForm y) (q : SysReg) (v : Word) : SysForm (y.store q v) := by
  cases q with
  | eipc => exact { h with eipc := sext26_sext26 v }
  | fepc => exact { h with fepc := sext26_sext26 v }
  | ctpc => exact { h with ctpc := sext26_sext26 v }
  | ctbp => exact { h with ctbp := pcmask_pcmask v }
  | vsadr => exact { h with vsadr := pcmask_pcmask v }
  | eipsw => exact { h with eipsw := and_and_mask v _ }
  | fepsw => exact { h with fepsw := and_and_mask v _ }
  | ctpsw => exact { h with ctpsw := and_and_mask v _ }
  | sccfg => exact { h with sccfg := and_and_mask v _ }
  | vsecr => exact { h with vsecr := and_and_mask v _ }
  | vmecr => exact { h with vmecr := and_and_mask v _ }
  | swCfg => exact { h with swCfg := and_and_mask v _ }
  | swBase => exact { h with swBase := and_and_mask v _ }
  | paL n =>
    refine { h with paL := fun j => ?_ }
    change sext26 (y.paL.set n _)[j] &&& _ = (y.paL.set n _)[j]
    rw [Fin.getElem_fin, Vector.getElem_set]
    split
    · exact paLForm v
    · exact h.paL j
  | paU n =>
    refine { h with paU := fun j => ?_ }
    change (y.paU.set n _)[j] &&& _ = (y.paU.set n _)[j]
    rw [Fin.getElem_fin, Vector.getElem_set]
    split
    · exact and_and_mask v _
    · exact h.paU j
  | _ => exact { h with }

/-- A write to another register than MPM leaves MPM. -/
theorem store_mpm (y : SysRegs) (q : SysReg) (v : Word) : (y.store q v).mpm = y.mpm := by cases q <;> rfl

theorem inv_store (h : Inv s) (q : SysReg) (v : Word) : Inv { s with sys := s.sys.store q v } := by
  have mpm : ({ s with sys := s.sys.store q v } : State).mpm = s.mpm := by rw [State.mpm, store_mpm]; rfl
  exact { r0 := h.r0, pc := h.pc, psw := by rw [mpm]; exact h.psw, sys := sysForm_store h.sys q v, mem := h.mem,
          lag := by rw [State.mpe, mpm]; exact h.lag }

/-- The old IMP that LDSR to the PSW keeps in force was in force, so MPE = 1. -/
theorem inv_writePsw (h : Inv s) (v : Word) : Inv (s.writePsw v) := by
  have legal : legalPsw s.mpm (s.ldsrPsw v) = s.ldsrPsw v := legalPsw_legalPsw ..
  by_cases same : ({ s with psw := s.ldsrPsw v } : State).pswIMP = s.pswIMP
  · rw [writePsw_of_same same]
    exact { h with psw := legal }
  · rw [writePsw_of_change same]
    exact { h with psw := legal, lag := fun _ => mpe_of_impInForce (pswForm s h) }

theorem inv_writePswLow (h : Inv s) (v : Word) : Inv (s.writePswLow v) := by
  refine { h with psw := ?_ }
  apply BitVec.eq_of_getLsbD_eq
  intro k hk
  have bit := legalPsw_bit s.mpm s.psw k
  rw [h.psw] at bit
  change (legalPsw s.mpm (s.writePswLow v).psw).getLsbD k = _
  rw [legalPsw_bit, writePswLow_bit]
  split
  · rw [decide_eq_true (.inl (by omega)), Bool.true_or, Bool.true_or, Bool.and_true]
  · exact bit.symm

theorem inv_writeMpm (h : Inv s) (present : s.product.protectionPresent = true) (v : Word) : Inv (s.writeMpm v) := by
  have mpm : (s.writeMpm v).mpm = v &&& 3 := if_pos present
  refine { h with psw := ?_, sys := { h.sys with mpm := and_and_mask v _ }, lag := fun lag _ => ?_ }
  · rw [mpm, legalPsw_mpm]
    exact legalPsw_legalPsw v s.psw
  · refine Classical.byContradiction fun mpe => ?_
    have off : v.getLsbD 0 = false := by
      rw [State.mpe, mpm] at mpe
      simpa using mpe
    exact lag (if_neg (by rw [off]; decide))

theorem inv_writeMpc (h : Inv s) (v : Word) : Inv (s.writeMpc v) := by
  unfold State.writeMpc
  split
  · refine { h with sys := { h.sys with paL := fun n => ?_ } }
    change sext26 (clearAreas s.sys.paL)[n] &&& _ = (clearAreas s.sys.paL)[n]
    rw [clearAreas, Fin.getElem_fin, Vector.getElem_map]
    exact paLForm_clear (h.sys.paL n)
  · exact h

theorem inv_writeSwCtl (h : Inv s) (v : Word) : Inv (s.writeSwCtl v) := by
  unfold State.writeSwCtl
  split
  · exact { h with sys := { h.sys with ehCfg := and_and_mask _ _, ehBase := baseMask_baseMask _ } }
  · exact h

theorem inv_writeSys (h : Inv s) (q : SysReg) (v : Word) : Inv (s.writeSys q v) := by
  unfold State.writeSys
  split
  · exact h
  · rename_i taken
    split
    · exact inv_writePsw h v
    · exact inv_writeMpm h (by simpa [SysReg.protectionGroup] using taken) v
    · exact inv_writeMpc h v
    · exact inv_writeSwCtl h v
    · exact inv_store h q v

theorem inv_recordSysViolation (h : Inv s) : Inv s.recordSysViolation := by
  rw [recordSysViolation_eq]
  refine { h with sys := { h.sys with vsecr := countForm _, vsadr := ?_ } }
  change pcmask (if s.sys.vsecr = 0 then s.pc else s.sys.vsadr) = if s.sys.vsecr = 0 then s.pc else s.sys.vsadr
  split
  · exact h.pc
  · exact h.sys.vsadr

theorem inv_ldsrTo (h : Inv s) (n : RegId) (v : Word) : Inv (s.ldsrTo n v) := by
  unfold State.ldsrTo State.ldsrUntrusted State.ldsrTrusted
  split
  · split
    · exact inv_writeSys h .ctbp v
    · exact inv_writePswLow h v
    · exact inv_recordSysViolation h
  · split
    · exact inv_writeSys h _ v
    · exact h

end

/-! ## Every instruction and every step -/

theorem Accesses.inv {s u : State} (ha : Accesses s u) (h : Inv s) : Inv u := by
  induction ha with
  | start => exact h
  | read _ a n ih => exact inv_onlyAsked ih (onlyAsked_afterRead _ a n)
  | write _ acc v _ _ hn ih => exact inv_busWrite ih acc.addr v hn
  | load _ r v ih => exact inv_writeReg ih r v

theorem Writes.inv {i : Instr} {u t : State} (hw : Writes i u t) (h : Inv u) : Inv t := by
  induction hw with
  | nothing => exact h
  | reg _ r v ih => exact inv_writeReg ih r v
  | pswBit _ k hk b ih => exact inv_setPswBit ih (by omega) b
  | sat _ b _ _ ih => exact inv_setPswBit ih (by omega) b
  | pc _ v ih => exact inv_setPc ih v
  | call _ ih => exact inv_saveCall ih
  | halt _ ih => exact { ih with }
  | free _ n ih => exact { ih with }

theorem exec_keeps_inv {i : Instr} {s t : State} (h : Inv s) (he : exec i s = .next t) : Inv t := by
  cases execTo_of_exec he with
  | completes ha hw => exact Writes.inv hw (Accesses.inv ha h)
  | violation ha acc => exact inv_takeMdp (Accesses.inv ha h) acc
  | error ha e => exact inv_take (Accesses.inv ha h) _
  | raises _ ha c => exact inv_take (Accesses.inv ha h) c
  | returns _ hu ret v =>
    rcases hu with rfl | rfl
    · exact inv_restore h ret v
    · exact inv_restore (inv_onlyAsked h (onlyAsked_notifyEnd s)) ret v
  | ldsr r n => exact inv_setPc (inv_ldsrTo h n _) _

theorem paLForm_reset : ∀ n : Fin 4, sext26 (Vector.replicate 4 (0 : Word))[n] &&& 0xFFFFFFF3 =
    (Vector.replicate 4 (0 : Word))[n] := by
  decide

theorem paUForm_reset : ∀ n : Fin 4, (Vector.replicate 4 (0 : Word))[n] &&& 0xFFFFFFF7 =
    (Vector.replicate 4 (0 : Word))[n] := by
  decide

theorem sysForm_reset (p : Product) : SysForm (SysRegs.reset p) where
  eipc := rfl
  eipsw := (by decide : (0x20 : Word) &&& 0x00070EFF = 0x20)
  fepc := rfl
  fepsw := (by decide : (0x20 : Word) &&& 0x00070EFF = 0x20)
  sccfg := BitVec.zero_and
  ctpc := rfl
  ctpsw := (by decide : (0x20 : Word) &&& 0x00070EFF = 0x20)
  ctbp := (by decide : pcmask 0 = 0)
  swCtl := rfl
  swCfg := BitVec.zero_and
  swBase := BitVec.zero_and
  ehCfg := and_and_mask ..
  ehReset := baseMask_baseMask _
  ehBase := baseMask_baseMask _
  mpm := BitVec.zero_and
  mpc := rfl
  paL := paLForm_reset
  paU := paUForm_reset
  vmecr := BitVec.zero_and
  vsecr := BitVec.zero_and
  vsadr := (by decide : pcmask 0 = 0)

/-- The PSW after reset is legal under every MPM. -/
theorem legalPsw_reset (m : Word) : legalPsw m 0x20 = 0x20 := by
  unfold legalPsw
  cases m.getLsbD 0 <;> cases m.getLsbD 1 <;> decide

theorem inv_resetFrom {s : State} (hm : Memory.wf s.mem = true) : Inv s.resetFrom :=
  { r0 := rfl, pc := pcmask_pcmask _, psw := legalPsw_reset _, sys := sysForm_reset s.product, mem := hm,
    lag := fun lag => absurd rfl lag }

/-- Settles O11: the registers after reset have their form, the PC is a masked 0, memory is empty. -/
theorem resetMeetsInvariant : Obligations.ResetMeetsInvariant :=
  { r0 := rfl, pc := rfl, psw := rfl, sys := sysForm_reset _, mem := wf_reset, lag := fun lag => absurd rfl lag }

/-- The fetch and the end of HALT mode keep the invariant; a lag that is one shorter was a lag. -/
theorem inv_awake {s : State} (h : Inv s) : Inv (awake s) := { h with }

theorem inv_fetchDone {s : State} (h : Inv s) : Inv s.fetchDone := inv_onlyAsked h (onlyAsked_fetchAfter ..)

theorem inv_tickImp {s : State} (h : Inv s) : Inv s.tickImp :=
  { h with lag := fun lag => h.lag fun zero => lag (by rw [tickImp_impLag, zero]) }

/-- Settles O12: every kind of step, by what it does to the state. -/
theorem stepKeepsInvariant : Obligations.StepKeepsInvariant := by
  intro s t inv h
  have fetched := inv_fetchDone (inv_awake inv)
  cases stepTo_of_step h with
  | reset => exact inv_resetFrom inv.mem
  | wait => exact { inv with }
  | accept c => exact inv_take (inv_awake inv) c
  | violation => exact inv_takeMip fetched
  | fetchError e => exact inv_take fetched _
  | coprocessor | reserved => exact inv_take (inv_tickImp fetched) _
  | run i _ _ ht => exact exec_keeps_inv (inv_tickImp fetched) ht

end Sys2Proof.Form
end

section
/-! # PREPARE and DISPOSE -/

namespace Sys2Proof.Frames

open Sys2Proof Sys2Proof.Machine Sys2Proof.Laws Sys2Proof.Safety Sys2Proof.Steps Sys2Proof.Instructions
  Sys2Proof.ExceptionsAndReturns Sys2Proof.EveryInstruction

/-! ## PREPARE -/

/-- What the stores of a PREPARE may change: memory, and what the platform has seen. -/
theorem pushesDone_only (s : State) (l : RegList) {n : Nat} (h : n ≤ (ascending l).length) :
    OnlyAsked { s with mem := (pushesDone s l n).mem } (pushesDone s l n) :=
  pushState_only s (s.readReg 3) (ascending l) n h

theorem pushesDone_accessed (s : State) (l : RegList) {n : Nat} (h : n ≤ (ascending l).length) :
    OnlyAccessed s (pushesDone s l n) := by
  have only := pushesDone_only s l h
  rw [OnlyAsked] at only
  rw [OnlyAccessed, OnlyAsked, only]

theorem pushesDone_succ (s : State) (l : RegList) {n : Nat} (h : n < (ascending l).length) :
    pushesDone s l (n + 1) = (pushesDone s l n).busWrite (pushAddr s n) 4 (s.readReg (ascending l)[n]) :=
  pushState_succ s (s.readReg 3) (ascending l) n h

/-- Stores that all go to plain memory change nothing but memory. -/
theorem pushesDone_plain (s : State) (l : RegList) {n : Nat} (h : n ≤ (ascending l).length)
    (plain : ∀ j, j < n → Plain s (pushAddr s j) 4) :
    pushesDone s l n = { s with mem := (pushesDone s l n).mem } := by
  induction n with
  | zero => rfl
  | succ n ih =>
    have before := ih (by omega) fun j hj => plain j (by omega)
    have plainNow : Plain (pushesDone s l n) (pushAddr s n) 4 := by
      rw [before]
      exact plain n (by omega)
    obtain ⟨_, now⟩ := busWrite_plain (s.readReg (ascending l)[n]) (by omega) plainNow
    rw [pushesDone_succ s l h]
    generalize (pushesDone s l n).busWrite (pushAddr s n) 4 (s.readReg (ascending l)[n]) = w at now ⊢
    rw [now, before]

theorem restSame_trans {s u t : State} (h : RestSame s u) (g : RestSame u t) : RestSame s t := by
  obtain ⟨h1, h2, h3, h4, h5, h6, h7, h8, h9⟩ := h
  obtain ⟨g1, g2, g3, g4, g5, g6, g7, g8, g9⟩ := g
  exact ⟨g1.trans h1, g2.trans h2, g3.trans h3, g4.trans h4, g5.trans h5, g6.trans h6, g7.trans h7, g8.trans h8, g9.trans h9⟩

theorem pushesDone_plain_restSame (s : State) (l : RegList) {n : Nat} (h : n ≤ (ascending l).length)
    (plain : ∀ j, j < n → Plain s (pushAddr s j) 4) : RestSame s (pushesDone s l n) := by
  rw [pushesDone_plain s l h plain]
  exact ⟨rfl, rfl, rfl, rfl, rfl, rfl, rfl, rfl, rfl⟩

/-- The stores before store n, when each of them is permitted and has no error. -/
theorem pushList_run {s : State} {l : RegList} {n : Nat} (h : n ≤ (ascending l).length)
    (hp : ∀ j, j < n → Permitted s (pushAddr s j) 4 .push true ∧ PushAccepted s l j) :
    s.pushList l = pushRegs ((ascending l).drop n) (s.readReg 3 - BitVec.ofNat 32 (4 * n)) (pushesDone s l n) :=
  pushRegs_run (ascending l) (s.readReg 3) s n h (fun j hj => (hp j hj).1) fun j hj => (hp j hj).2

theorem pushList_all {s : State} {l : RegList}
    (hp : ∀ j, j < (ascending l).length → Permitted s (pushAddr s j) 4 .push true ∧ PushAccepted s l j) :
    s.pushList l = ⟨pushesDone s l (ascending l).length, s.readReg 3 - BitVec.ofNat 32 (4 * (ascending l).length), none⟩ := by
  rw [pushList_run (Nat.le_refl _) hp, List.drop_length, pushRegs]

/-- Store n, after the stores before it, by whether it violates the protection and whether it has an error. -/
theorem pushList_stop {s : State} {l : RegList} {n : Nat} (h : n < (ascending l).length)
    (hp : ∀ j, j < n → Permitted s (pushAddr s j) 4 .push true ∧ PushAccepted s l j) :
    (s.violates (pushAccess (pushAddr s n)) = true →
      (s.pushList l).state = pushesDone s l n ∧ (s.pushList l).stop = some (.violation (pushAccess (pushAddr s n)))) ∧
    (∀ e, s.violates (pushAccess (pushAddr s n)) = false → (pushesDone s l n).busError (pushAddr s n) 4 = some e →
      (s.pushList l).state = pushesDone s l (n + 1) ∧ (s.pushList l).stop = some (.error e)) := by
  have addr : wordAlign (s.readReg 3 - BitVec.ofNat 32 (4 * n) - 4) = pushAddr s n := by
    unfold pushAddr
    congr 1
    bv_omega
  have only := pushesDone_only s l (Nat.le_of_lt h)
  have check : (pushesDone s l n).violates (pushAccess (pushAddr s n)) = s.violates (pushAccess (pushAddr s n)) :=
    violates_of_asked _ only
  have source : (pushesDone s l n).readReg (ascending l)[n] = s.readReg (ascending l)[n] := by
    rw [only]
    rfl
  rw [pushList_run (Nat.le_of_lt h) hp, List.drop_eq_getElem_cons h, pushRegs, addr, check, source, ← pushesDone_succ s l h]
  refine ⟨fun violation => ?_, fun e permitted error => ?_⟩
  · simp [violation]
  · simp [permitted, error]

/-- ep receives the value, where there is one. -/
def withEp (ep : Option Word) (t : State) : State :=
  match ep with
  | none => t
  | some v => t.writeReg 30 v

theorem withEp_mem (ep : Option Word) (t : State) : (withEp ep t).mem = t.mem := by
  cases ep <;> simp [withEp]

theorem withEp_pc (ep : Option Word) (t : State) : (withEp ep t).pc = t.pc := by
  cases ep <;> simp [withEp]

theorem withEp_sp (ep : Option Word) (t : State) : (withEp ep t).readReg 3 = t.readReg 3 := by
  cases ep with
  | none => rfl
  | some v => exact readReg_writeReg_other _ _ (by decide)

theorem withEp_ep (t : State) (v : Word) : (withEp (some v) t).readReg 30 = v :=
  (readReg_writeReg_same t 30 v).trans (if_neg (by decide))

theorem frame_withEp {s t : State} (ep : Option Word) (h : Frame [3] [] s t) :
    Frame (if ep = none then [3] else [3, 30]) [] s (withEp ep t) := by
  cases ep with
  | none => exact h
  | some v => exact frame_writeReg (frame_mono h (by simp) (by simp)) 30 v (by simp)

/-- What all forms of PREPARE have in common: after the stores, sp is lowered, ep is set and the PC moves on. -/
theorem prepareGives {i : Instr} {s : State} {l : RegList} {imm5 : BitVec 5} {ep : Option Word} {len : Nat}
    (rest : State → Word → State) (he : exec i s = .next ((s.pushList l).finish rest))
    (hr : ∀ u, rest u (s.readReg 3 - BitVec.ofNat 32 (4 * (ascending l).length)) = (withEp ep (u.writeReg 3
      (s.readReg 3 - BitVec.ofNat 32 (4 * (ascending l).length) - frameBytes imm5))).advance len) :
    PrepareGives i s l imm5 ep len := by
  intro accepted
  have only := pushesDone_only s l (Nat.le_refl (ascending l).length)
  have short := ascending_length_le l
  rw [he, pushList_all accepted]
  refine ⟨_, congrArg Host.Outcome.next (hr _), ?_⟩
  rw [frameBytes_eq]
  generalize sp : s.readReg 3 - BitVec.ofNat 32 (4 * (ascending l).length) - BitVec.ofNat 32 (4 * imm5.toNat) = v
  have frame : Frame (if ep = none then [3] else [3, 30]) [] (pushesDone s l (ascending l).length)
      ((withEp ep ((pushesDone s l (ascending l).length).writeReg 3 v)).advance len) :=
    (frame_advance ..).mpr (frame_withEp ep (frame_writeReg (frame_refl ..) 3 v (by simp)))
  obtain ⟨regs, bits, _, others⟩ := frame
  refine ⟨pushed_pushState s _ l _ (by omega) (Nat.le_refl _) ?mem, ?sp, fun w hw => ?ep, fun r hr => ?regs, fun k hk => ?bits, others,
    fun plain => ?plain, ?falls⟩
  case mem => exact (withEp_mem ep _).trans (writeReg_mem ..)
  case sp => exact (withEp_sp ep _).trans ((readReg_writeReg_same _ 3 v).trans (if_neg (by decide)))
  case ep =>
    subst hw
    exact withEp_ep _ w
  case regs =>
    rw [regs r hr, only]
    rfl
  case bits =>
    rw [bits k hk, only]
  case plain =>
    exact restSame_trans (pushesDone_plain_restSame s l (Nat.le_refl _) plain) others
  case falls =>
    refine falls_advance len s _ ?_
    rw [withEp_pc, writeReg_pc, only]

/-- Settles O41: the five forms differ in the value for ep and in length. -/
theorem prepareBuildsFrame : Obligations.PrepareBuildsFrame := by
  intro s l i
  refine ⟨prepareGives _ rfl fun _ => rfl, prepareGives _ rfl fun _ => ?sp, fun m => prepareGives _ rfl fun _ => ?sign,
    fun m => prepareGives _ rfl fun _ => ?upper, fun m => prepareGives _ rfl fun _ => rfl⟩
  case sp =>
    rw [← frameBytes_eq]
    rfl
  case sign =>
    rw [ofInt16]
    rfl
  case upper =>
    rw [← Computations.upper16_eq]
    rfl

/-! ## DISPOSE -/

/-- The loads of a DISPOSE start at sp above the frame. -/
theorem popsDone_eq (s : State) (i : BitVec 5) (n : Nat) : popsDone s i n = popState s (s.readReg 3 + frameBytes i) n := by
  unfold popsDone popState
  simp only [popAddr_eq]

theorem popsDone_only (s : State) (i : BitVec 5) (n : Nat) : OnlyAsked s (popsDone s i n) := by
  rw [popsDone_eq]
  exact popState_only ..

theorem popsDone_plain {s : State} {i : BitVec 5} {n : Nat} (plain : ∀ j, j < n → Plain s (popAddr s i j) 4) :
    popsDone s i n = s := by
  rw [popsDone_eq]
  exact popState_plain _ _ _ fun j hj => popAddr_eq s i j ▸ plain j hj

/-- The state after loads: what the platform was asked, and the registers loaded. -/
def loaded (s : State) (i : BitVec 5) (n : Nat) (g : Vector Word 32) : State := { popsDone s i n with gr := g }

theorem loaded_accessed (s : State) (i : BitVec 5) (n : Nat) (g : Vector Word 32) : OnlyAccessed s (loaded s i n g) := by
  have only := popsDone_only s i n
  rw [OnlyAsked] at only
  rw [OnlyAccessed, OnlyAsked, loaded, only]

theorem loaded_mem (s : State) (i : BitVec 5) (n : Nat) (g : Vector Word 32) : (loaded s i n g).mem = s.mem := by
  rw [loaded, popsDone_only s i n]

/-- The registers g hold what the first n loads gave, and otherwise what they held in s. -/
def Loads (s : State) (i : BitVec 5) (l : RegList) (n : Nat) (g : Vector Word 32) : Prop :=
  (∀ j r, j < n → (descending l)[j]? = some r →
    ({ s with gr := g } : State).readReg r = (popsDone s i j).busRead32 (popAddr s i j)) ∧
    ∀ r, r ∉ (descending l).take n → ({ s with gr := g } : State).readReg r = s.readReg r

/-- The loads before load n, when each of them is permitted and has no error. -/
theorem popList_run {s : State} {i : BitVec 5} {l : RegList} {n : Nat} (h : n ≤ (descending l).length)
    (hp : ∀ j, j < n → Permitted s (popAddr s i j) 4 .pop true ∧ PopAccepted s i j) :
    ∃ g, Loads s i l n g ∧ s.popList i l = popRegs ((descending l).drop n)
      (s.readReg 3 + frameBytes i + BitVec.ofNat 32 (4 * n)) (loaded s i n g) := by
  obtain ⟨nodup, no0, _⟩ := descending_nodup l
  simp only [Permitted, PopAccepted, popsDone_eq, popAddr_eq] at hp
  obtain ⟨g, run, regs, others⟩ := popRegs_run (descending l) (s.readReg 3 + frameBytes i) s nodup no0 n h
    (fun j hj => (hp j hj).1) fun j hj => (hp j hj).2
  refine ⟨g, ⟨fun j r hj hr => ?_, others⟩, ?_⟩
  · rw [popsDone_eq, popAddr_eq]
    exact regs j r hj hr
  · rw [loaded, popsDone_eq]
    exact run

theorem popList_all {s : State} {i : BitVec 5} {l : RegList}
    (hp : ∀ j, j < (descending l).length → Permitted s (popAddr s i j) 4 .pop true ∧ PopAccepted s i j) :
    ∃ g, Loads s i l (descending l).length g ∧ s.popList i l =
      ⟨loaded s i (descending l).length g, s.readReg 3 + frameBytes i + BitVec.ofNat 32 (4 * (descending l).length), none⟩ := by
  obtain ⟨g, loads, run⟩ := popList_run (Nat.le_refl _) hp
  refine ⟨g, loads, ?_⟩
  rw [run, List.drop_length, popRegs]

/-- Load n, after the loads before it, by whether it violates the protection and whether it has an error. -/
theorem popList_stop {s : State} {i : BitVec 5} {l : RegList} {n : Nat} (h : n < (descending l).length)
    (hp : ∀ j, j < n → Permitted s (popAddr s i j) 4 .pop true ∧ PopAccepted s i j) :
    ∃ g, Loads s i l n g ∧
      (s.violates (popAccess (popAddr s i n)) = true → (s.popList i l).state = loaded s i n g ∧
        (s.popList i l).stop = some (.violation (popAccess (popAddr s i n)))) ∧
      (∀ e, s.violates (popAccess (popAddr s i n)) = false → (popsDone s i n).busError (popAddr s i n) 4 = some e →
        (s.popList i l).state = loaded s i (n + 1) g ∧ (s.popList i l).stop = some (.error e)) := by
  obtain ⟨g, loads, run⟩ := popList_run (Nat.le_of_lt h) hp
  have check : (loaded s i n g).violates (popAccess (popAddr s i n)) = s.violates (popAccess (popAddr s i n)) := by
    rw [loaded, popsDone_only s i n]
    rfl
  have error : (loaded s i n g).busError (popAddr s i n) 4 = (popsDone s i n).busError (popAddr s i n) 4 :=
    busError_withGr ..
  have next : (loaded s i n g).afterRead (popAddr s i n) 4 = loaded s i (n + 1) g := by
    rw [loaded, afterRead_withGr, loaded, popsDone, popsDone, List.range_succ, List.foldl_append]
    rfl
  rw [run, List.drop_eq_getElem_cons h, popRegs, ← popAddr_eq, check, error, next]
  refine ⟨g, loads, fun violation => ?_, fun e permitted reported => ?_⟩
  · simp [violation]
  · simp [permitted, reported]

/-- The state t holds in the listed registers what the loads gave. -/
theorem popped_of_loads {s t : State} {i : BitVec 5} {l : RegList} {n : Nat} {g : Vector Word 32} (h : Loads s i l n g)
    (ht : ∀ r, r ∈ descending l → t.readReg r = ({ s with gr := g } : State).readReg r) : Popped i l n s t := by
  obtain ⟨regs, _⟩ := h
  refine ⟨fun j r hj hr => ?_, popsDone_only s i n⟩
  have datum : t.readReg r = wordOf ((popsDone s i j).busByte (popAddr s i j) 4) :=
    (ht r (List.mem_of_getElem? hr)).trans (regs j r hj hr)
  refine ⟨datum, fun plain => ?_⟩
  have only := popsDone_only s i j
  have plainNow : Plain (popsDone s i j) (popAddr s i j) 4 := by
    rw [only]
    exact plain
  rw [datum, DataInstructions.wordOf_plain plainNow, only]
  rfl

/-- What both forms of DISPOSE have in common: after the loads sp is raised and execution goes on somewhere. -/
theorem disposeGives {s : State} {i : BitVec 5} {l : RegList} {g : Vector Word 32} (h : Loads s i l (descending l).length g)
    (target : Word) : DisposeGives i l s (((loaded s i (descending l).length g).writeReg 3
      (s.readReg 3 + frameBytes i + BitVec.ofNat 32 (4 * (descending l).length))).setPc target) := by
  obtain ⟨_, _, no3⟩ := descending_nodup l
  obtain ⟨_, others⟩ := id h
  generalize sp : s.readReg 3 + frameBytes i + BitVec.ofNat 32 (4 * (descending l).length) = v
  have only := popsDone_only s i (descending l).length
  have kept : RegsExcept (3 :: descending l) (popsDone s i (descending l).length) (loaded s i (descending l).length g) := by
    intro r hr
    rw [List.mem_cons, not_or] at hr
    rw [only]
    exact others r (by rw [List.take_length]; exact hr.2)
  have frame : Frame (3 :: descending l) [] (popsDone s i (descending l).length)
      (((loaded s i (descending l).length g).writeReg 3 v).setPc target) :=
    (frame_setPc ..).mpr (frame_writeReg ⟨kept, fun _ _ => rfl, fun _ => rfl, rfl, rfl, rfl, rfl, rfl, rfl, rfl, rfl, rfl⟩ 3 v
      (by simp))
  refine ⟨popped_of_loads h fun r hr => ?_, ?_, frame, fun plain => ?_⟩
  · exact readReg_writeReg_other _ _ fun e => no3 (e ▸ hr)
  · rw [← frameBytes_eq, sp]
    exact (readReg_writeReg_same _ 3 v).trans (if_neg (by decide))
  · rw [popsDone_plain plain] at frame
    exact frame

/-- Settles O42: the two forms differ in where they go on. -/
theorem disposeRemovesFrame : Obligations.DisposeRemovesFrame := by
  intro s i l accepted
  obtain ⟨g, loads, run⟩ := popList_all accepted
  refine ⟨⟨_, ?_, disposeGives loads (s.pc + 4), ?_⟩, fun R => ⟨_, ?_, disposeGives loads
    (((loaded s i (descending l).length g).writeReg 3
      (s.readReg 3 + frameBytes i + BitVec.ofNat 32 (4 * (descending l).length))).readReg R), rfl⟩⟩
  · have pc : (loaded s i (descending l).length g).pc = s.pc := by rw [loaded, popsDone_only s i _]
    change execDispose i l s = _
    rw [execDispose, run, StackRun.finish]
    simp only [State.advance, writeReg_pc, pc]
    rfl
  · rfl
  · change execDisposeJmp i l R s = _
    rw [execDisposeJmp, run]
    rfl

/-! ## Where an access stops PREPARE or DISPOSE -/

/-- All forms of PREPARE begin with the stores. -/
theorem exec_prepare {s : State} {l : RegList} {i : BitVec 5} {m : Half} {v : Word} {p : Instr}
    (hp : p ∈ [Instr.prepare l i, .prepareSp l i, .prepareImm16 l i m, .prepareImm16Hi l i m, .prepareImm32 l i v]) :
    ∃ rest, exec p s = .next ((s.pushList l).finish rest) := by
  simp only [List.mem_cons, List.not_mem_nil, or_false] at hp
  rcases hp with rfl | rfl | rfl | rfl | rfl <;> exact ⟨_, rfl⟩

/-- Both forms of DISPOSE begin with the loads. -/
theorem exec_dispose {s : State} {l : RegList} {i : BitVec 5} {R : Reg} {p : Instr}
    (hp : p ∈ [Instr.dispose i l, .disposeJmp i l R]) : ∃ rest, exec p s = .next ((s.popList i l).finish rest) := by
  simp only [List.mem_cons, List.not_mem_nil, or_false] at hp
  rcases hp with rfl | rfl <;> exact ⟨_, rfl⟩

/-- The state of a run that an access stopped is that of the exception. -/
theorem finish_violation {run : StackRun} {u : State} {acc : Access} (rest : State → Word → State) (hs : run.state = u)
    (h : run.stop = some (.violation acc)) : run.finish rest = u.takeMdp acc := by
  rw [StackRun.finish, h, ← hs]

theorem finish_error {run : StackRun} {u : State} {e : AccessError} (rest : State → Word → State) (hs : run.state = u)
    (h : run.stop = some (.error e)) : run.finish rest = u.takeError e := by
  rw [StackRun.finish, h, ← hs]

/-- A store with an error leaves memory as the stores before it did. -/
theorem pushesDone_error {s : State} {l : RegList} {n : Nat} {e : AccessError} (h : n < (ascending l).length)
    (error : (pushesDone s l n).busError (pushAddr s n) 4 = some e) :
    OnlyAsked (pushesDone s l n) (pushesDone s l (n + 1)) := by
  rw [pushesDone_succ s l h]
  exact onlyAsked_busWrite _ error

/-- The causes that VMECR receives (R551): PREPARE an sp-relative write, DISPOSE an sp-relative read. -/
theorem pushAccess_vmecr (a : Word) : (pushAccess a).vmecr = 0x18 := by
  simp [Access.vmecr, pushAccess]

theorem popAccess_vmecr (a : Word) : (popAccess a).vmecr = 0x14 := by
  simp [Access.vmecr, popAccess]

/-- PREPARE stopped by store j. -/
theorem prepare_stops {s : State} {i : BitVec 5} {l : RegList} {j : Nat} (hj : j < (ascending l).length)
    (hp : ∀ j', j' < j → Permitted s (pushAddr s j') 4 .push true ∧ PushAccepted s l j') {p : Instr} {m : Half} {v : Word}
    (hm : p ∈ [Instr.prepare l i, .prepareSp l i, .prepareImm16 l i m, .prepareImm16Hi l i m, .prepareImm32 l i v]) :
    (s.violates (pushAccess (pushAddr s j)) = true → ∃ t, exec p s = .next t ∧ Pushed l j s t ∧ RegsExcept [] s t ∧
      EntersFe 0x431 s.pc (s.sys.ehBase + 0x30) false true (violationRecorded s (pushAddr s j) 0x18) (pushesDone s l j) t ∧
      ((∀ j', j' < j → Plain s (pushAddr s j') 4) → MachineSame s t ∧ t.events = s.events)) ∧
    (∀ e, Permitted s (pushAddr s j) 4 .push true → (pushesDone s l j).busError (pushAddr s j) 4 = some e →
      ∃ t, exec p s = .next t ∧ Pushed l j s t ∧ RegsExcept [] s t ∧
      EntersFe (errorCode e) s.pc (s.sys.ehBase + 0x30) false false s.sys (pushesDone s l (j + 1)) t ∧
      OnlyAsked (pushesDone s l j) (pushesDone s l (j + 1))) := by
  obtain ⟨rest, he⟩ := exec_prepare (s := s) hm
  obtain ⟨violates, errs⟩ := pushList_stop hj hp
  have short := ascending_length_le l
  rw [he]
  refine ⟨fun violation => ?_, fun e permitted error => ?_⟩
  · obtain ⟨state, stop⟩ := violates violation
    have enters := enters_violation (pushesDone_accessed s l (Nat.le_of_lt hj)) (pushAccess (pushAddr s j))
    rw [pushAccess_vmecr] at enters
    refine ⟨_, congrArg Host.Outcome.next (finish_violation rest state stop), pushed_pushState s _ l j (by omega) (Nat.le_of_lt hj) rfl,
      fun r _ => ?_, enters, fun plain => ?_⟩
    · have gr : (pushesDone s l j).gr = s.gr := by rw [pushesDone_only s l (Nat.le_of_lt hj)]
      simp [State.readReg, gr]
    · obtain ⟨_, _, _, events, halted, inputs, answers, free, product⟩ := enters
      obtain ⟨_, f, h, _, _, i', a, ev, pr⟩ := pushesDone_plain_restSame s l (Nat.le_of_lt hj) plain
      exact ⟨⟨halted.trans h, inputs.trans i', answers.trans a, free.trans f, product.trans pr⟩, events.trans ev⟩
  · obtain ⟨state, stop⟩ := errs e permitted error
    have only := pushesDone_error hj error
    refine ⟨_, congrArg Host.Outcome.next (finish_error rest state stop),
      pushed_pushState s _ l j (by omega) (Nat.le_of_lt hj) ?_, fun r _ => ?_, enters_error (pushesDone_accessed s l hj) e, only⟩
    · change (pushesDone s l (j + 1)).mem = _
      rw [only]
    · have gr : (pushesDone s l (j + 1)).gr = s.gr := by rw [pushesDone_only s l hj]
      simp [State.readReg, gr]

/-- DISPOSE stopped by load j. -/
theorem dispose_stops {s : State} {i : BitVec 5} {l : RegList} {j : Nat} (hj : j < (descending l).length)
    (hp : ∀ j', j' < j → Permitted s (popAddr s i j') 4 .pop true ∧ PopAccepted s i j') {p : Instr} {R : Reg}
    (hm : p ∈ [Instr.dispose i l, .disposeJmp i l R]) :
    (s.violates (popAccess (popAddr s i j)) = true → ∃ t, exec p s = .next t ∧ Popped i l j s t ∧
      RegsExcept ((descending l).take j) s t ∧ MemSame s t ∧
      EntersFe 0x431 s.pc (s.sys.ehBase + 0x30) false true (violationRecorded s (popAddr s i j) 0x14) (popsDone s i j) t ∧
      ((∀ j', j' < j → Plain s (popAddr s i j') 4) → MachineSame s t ∧ t.events = s.events)) ∧
    (∀ e, Permitted s (popAddr s i j) 4 .pop true → (popsDone s i j).busError (popAddr s i j) 4 = some e →
      ∃ t, exec p s = .next t ∧ Popped i l j s t ∧ RegsExcept ((descending l).take j) s t ∧ MemSame s t ∧
      EntersFe (errorCode e) s.pc (s.sys.ehBase + 0x30) false false s.sys (popsDone s i (j + 1)) t ∧
      OnlyAsked s (popsDone s i (j + 1))) := by
  obtain ⟨rest, he⟩ := exec_dispose (s := s) hm
  obtain ⟨g, loads, violates, errs⟩ := popList_stop hj hp
  obtain ⟨_, others⟩ := id loads
  rw [he]
  refine ⟨fun violation => ?_, fun e permitted error => ?_⟩
  · obtain ⟨state, stop⟩ := violates violation
    have enters : EntersFe 0x431 s.pc (s.sys.ehBase + 0x30) false true (violationRecorded s (popAddr s i j) _)
        (popsDone s i j) _ :=
      enters_violation (loaded_accessed s i j g) (popAccess (popAddr s i j))
    rw [popAccess_vmecr] at enters
    refine ⟨_, congrArg Host.Outcome.next (finish_violation rest state stop), popped_of_loads loads fun _ _ => rfl, others,
      fun a => congrArg (fun m => ({ s with mem := m } : State).read8 a) (loaded_mem s i j g), enters, fun plain => ?_⟩
    obtain ⟨_, _, _, events, machine⟩ := enters
    rw [popsDone_plain plain] at events machine
    exact ⟨machine, events⟩
  · obtain ⟨state, stop⟩ := errs e permitted error
    have enters := enters_error (loaded_accessed s i (j + 1) g) e
    exact ⟨_, congrArg Host.Outcome.next (finish_error rest state stop), popped_of_loads loads fun _ _ => rfl, others,
      fun a => congrArg (fun m => ({ s with mem := m } : State).read8 a) (loaded_mem s i (j + 1) g), enters,
      popsDone_only s i (j + 1)⟩

/-- Settles O43: the run of accesses stops at access j, and the exception is entered from there. -/
theorem stackViolationStopsMidway : Obligations.StackViolationStopsMidway := fun _ _ l _ hj =>
  ⟨fun hp _ _ _ hm => prepare_stops hj hp hm, fun hp _ _ hm => dispose_stops (descending_length l ▸ hj) hp hm⟩

end Sys2Proof.Frames
end

section
/-! # Memory and the platform -/

namespace Sys2Proof.MemoryAccesses

open Sys2Proof Sys2Proof.Machine Sys2Proof.Laws Sys2Proof.Safety

/-! ## Words and their bytes -/

theorem byteOf_wordOf (f : Nat → Byte) {k : Nat} (hk : k < 4) : byteOf (wordOf f) k = f k := by
  apply BitVec.eq_of_getLsbD_eq
  intro i hi
  obtain rfl | rfl | rfl | rfl : k = 0 ∨ k = 1 ∨ k = 2 ∨ k = 3 := by omega
  all_goals simp [byteOf, wordOf] <;> grind

theorem byteOf_wordAt (s : State) (a : Word) {k : Nat} (hk : k < 4) :
    byteOf (wordAt s a) k = s.read8 (a + BitVec.ofNat 32 k) := byteOf_wordOf _ hk

/-- Four bytes that hold a word make it up. -/
theorem wordAt_of_stored {t : State} {a v : Word} (h : Stored a 4 v t) : wordAt t a = v := by
  rw [wordAt, wordOf, memBytes, memBytes, memBytes, memBytes, h 3 (by omega), h 2 (by omega), h 1 (by omega), h 0 (by omega)]
  exact bytes_of_word v

theorem lowHalf_of_stored {t : State} {a v : Word} (h : Stored a 2 v t) : lowHalf (wordAt t a) = lowHalf v := by
  rw [← bytes_of_half, ← bytes_of_half, byteOf_wordAt _ _ (by omega), byteOf_wordAt _ _ (by omega), h 1 (by omega),
    h 0 (by omega)]

theorem lowBytes_eq (n : Nat) (v : Word) : lowBytes n v = BitVec.ofNat 32 (v.toNat % 2 ^ (8 * n)) := by
  apply BitVec.eq_of_toNat_eq
  simp [lowBytes, BitVec.extractLsb'_toNat]

/-! ## Accesses of one byte are one cycle -/

theorem afterRead_byte (s : State) (a : Word) : s.afterRead a 1 = s.readCycle a 1 := if_pos (Nat.mod_one _)

theorem busWrite_byte (s : State) (a v : Word) : s.busWrite a 1 v = s.writeCycle a 1 v := if_pos (Nat.mod_one _)

theorem busError_byte (s : State) (a : Word) : s.busError a 1 = s.cycleError a 1 := if_pos (Nat.mod_one _)

theorem busByte_byte (s : State) (a : Word) : s.busByte a 1 0 = s.cycleByte a 1 0 := if_pos (Nat.mod_one _)

/-! ## Misaligned accesses -/

/-- The bytes read before byte k of a misaligned access, each by an access of its own. -/
theorem byteReads_eq (s : State) (a : Word) (k : Nat) :
    s.byteReads a k = (List.range k).foldl (fun u j => u.afterRead (a + BitVec.ofNat 32 j) 1) s := by
  simp only [State.byteReads, afterRead_byte]

theorem byteWrites_eq (s : State) (a v : Word) (k : Nat) : s.byteWrites a v k =
    (List.range k).foldl (fun u j => u.busWrite (a + BitVec.ofNat 32 j) 1 ((byteOf v j).setWidth 32)) s := by
  simp only [State.byteWrites, busWrite_byte]

/-- The error of a cycle is told by the answers left and by where the platform answers. -/
theorem cycleError_congr {s t : State} (ha : t.answers = s.answers) (hp : t.product = s.product) (a : Word) (n : Nat) :
    t.cycleError a n = s.cycleError a n := by
  have io : t.anyIo a n = s.anyIo a n := by simp only [State.anyIo, State.isIo, hp]
  have error : t.answer.error = s.answer.error := by
    rw [State.answer, State.answer, ha]
    cases s.answers <;> rfl
  rw [State.cycleError, State.cycleError, io, error]

/-- A write cycle uses up an answer exactly when a read cycle of the same bytes does. -/
theorem writeCycle_answers (s : State) (a : Word) (n : Nat) (v : Word) :
    (s.writeCycle a n v).answers = (s.readCycle a n).answers ∧ (s.writeCycle a n v).product = (s.readCycle a n).product := by
  unfold State.writeCycle State.readCycle
  split
  · exact ⟨rfl, rfl⟩
  · split <;> exact ⟨rfl, rfl⟩

theorem readCycle_congr {s t : State} (ha : t.answers = s.answers) (hp : t.product = s.product) (a : Word) (n : Nat) :
    (t.readCycle a n).answers = (s.readCycle a n).answers ∧ (t.readCycle a n).product = (s.readCycle a n).product := by
  have io : t.anyIo a n = s.anyIo a n := by simp only [State.anyIo, State.isIo, hp]
  rw [State.readCycle, State.readCycle, io]
  split
  · exact ⟨congrArg List.tail ha, hp⟩
  · exact ⟨ha, hp⟩

/-- Byte writes leave the answers that byte reads leave. -/
theorem byteWrites_answers (s : State) (a v : Word) (k : Nat) :
    (s.byteWrites a v k).answers = (s.byteReads a k).answers ∧ (s.byteWrites a v k).product = (s.byteReads a k).product := by
  induction k with
  | zero => exact ⟨rfl, rfl⟩
  | succ k ih =>
    obtain ⟨answers, product⟩ := ih
    have write := writeCycle_answers (s.byteWrites a v k) (a + BitVec.ofNat 32 k) 1 ((byteOf v k).setWidth 32)
    have read := readCycle_congr answers product (a + BitVec.ofNat 32 k) 1
    simp only [State.byteWrites, State.byteReads, List.range_succ, List.foldl_append, List.foldl_cons, List.foldl_nil] at *
    exact ⟨write.1.trans read.1, write.2.trans read.2⟩

/-- A misaligned access without error, byte by byte. -/
theorem misaligned_ok {s : State} {a : Word} {n : Nat} (v : Word) (ha : a.toNat % n ≠ 0)
    (h : ∀ k, k < n → s.byteError a k = none) :
    s.busError a n = none ∧ s.afterRead a n = s.byteReads a n ∧ s.busWrite a n v = s.byteWrites a v n ∧
      ∀ k, k < n → s.busByte a n k = (s.byteReads a k).busByte (a + BitVec.ofNat 32 k) 1 0 := by
  have error : s.busError a n = none := by
    rw [State.busError, if_neg ha, List.findSome?_eq_none_iff]
    exact fun k hk => h k (List.mem_range.mp hk)
  refine ⟨error, ?_, busWrite_ok v ha error, fun k _ => ?_⟩
  · rw [State.afterRead, if_neg ha, byteCycles_of_ok ha error]
  · rw [State.busByte, if_neg ha, busByte_byte]

/-- A misaligned access with its first error at byte k. -/
theorem misaligned_error {s : State} {a : Word} {n k : Nat} {e : AccessError} (v : Word) (ha : a.toNat % n ≠ 0) (hk : k < n)
    (he : s.byteError a k = some e) (hj : ∀ j, j < k → s.byteError a j = none) :
    s.busError a n = some e ∧ s.afterRead a n = s.byteReads a (k + 1) ∧
      s.busWrite a n v = { s.byteWrites a v (k + 1) with mem := s.mem } ∧
      (s.byteWrites a v k).busError (a + BitVec.ofNat 32 k) 1 = some e := by
  have error : s.busError a n = some e := by
    rw [State.busError, if_neg ha]
    exact findSome_range hk he hj
  have cycles : s.byteCycles a n = k + 1 :=
    cyclesUntil_some hk (by rw [he]; rfl) fun j h => by rw [hj j h]; rfl
  obtain ⟨answers, product⟩ := byteWrites_answers s a v k
  refine ⟨error, ?_, ?_, ?_⟩
  · rw [State.afterRead, if_neg ha, cycles]
  · rw [State.busWrite, if_neg ha, error, cycles]
  · rw [busError_byte, cycleError_congr answers product]
    exact he

theorem access_size {n : Nat} (h : n ∈ [1, 2, 4]) : n = 1 ∨ n = 2 ∨ n = 4 := by
  simpa using h

/-- An access of plain memory. -/
theorem plain_access {s : State} {a : Word} {n : Nat} (v : Word) (hn : n = 1 ∨ n = 2 ∨ n = 4) (h : Plain s a n) :
    (∀ k : Nat, k < n → s.busByte a n k = s.read8 (a + BitVec.ofNat 32 k)) ∧ s.busError a n = none ∧
      s.afterRead a n = s ∧ Stored a n v (s.busWrite a n v) ∧ MemExcept a n s (s.busWrite a n v) ∧
      s.busWrite a n v = { s with mem := (s.busWrite a n v).mem } ∧
      ∀ k : Nat, k < n → (s.busWrite a n v).busByte a n k = byteOf v k := by
  obtain ⟨stored, only⟩ := busWrite_plain v hn h
  have plain : Plain (s.busWrite a n v) a n := by
    rw [only]
    exact h
  exact ⟨fun k => busByte_plain h, busError_plain h, afterRead_plain h, stored, (onlyStored_busWrite s a n v hn).1, only,
    fun k hk => (busByte_plain plain hk).trans (stored k hk)⟩

/-- Settles O15: plain memory by the bytes written, the platform by cycles. -/
theorem memoryIsLittleEndian : Obligations.MemoryIsLittleEndian := by
  intro s a v b
  refine ⟨fun k => byteOf_wordAt s a, wordAt_of_stored (stored_write32 s a v), lowHalf_of_stored (stored_write16 s a v),
    by simp [read8_write8], stored_write32 s a v, stored_write16 s a v, read8_write32_other s a v, read8_write16_other s a v,
    fun x hx => ?outside, rfl, rfl, rfl, fun n hn => plain_access v (access_size hn), fun n hn aligned io => ?aligned,
    fun n _ misaligned rd wr err hrd hwr herr => ?misaligned, fun e => ⟨onlyAsked_note s e, rfl, rfl⟩, fun x l h => ?left,
    fun h => ?noneLeft⟩
  case outside =>
    have other := hx 0 (by omega)
    rw [read8_write8, if_neg (by simpa using other)]
  case aligned =>
    refine ⟨fun k _ => busByte_io k aligned io, busError_io aligned io, afterRead_io aligned io, ?_⟩
    rw [busWrite_io v aligned io, lowBytes_eq]
  case misaligned =>
    have reads : rd = s.byteReads a := hrd.trans (funext fun k => (byteReads_eq s a k).symm)
    have writes : wr = s.byteWrites a v := hwr.trans (funext fun k => (byteWrites_eq s a v k).symm)
    have errors : err = s.byteError a := by
      rw [herr, reads]
      exact funext fun k => busError_byte ..
    rw [reads, writes, errors]
    exact ⟨misaligned_ok v misaligned, fun k e => misaligned_error v misaligned⟩
  case left => rw [State.answer, h]; rfl
  case noneLeft => rw [State.answer, h]; rfl

end Sys2Proof.MemoryAccesses
end

section
/-! # A byte without read permission does not influence an instruction

Two runs of an instruction, from states that differ in one byte alone, keep in step: what an instruction does besides its data
accesses does not look at memory, and a checked read reads other bytes. -/

namespace Sys2Proof.Noninterference

open Sys2Proof Sys2Proof.Machine Sys2Proof.Laws Sys2Proof.Safety Sys2Proof.Instructions Sys2Proof.SystemRegisters
  Sys2Proof.EveryInstruction

/-! ## Operations that do not look at memory -/

/-- The state with another memory. -/
def withMem (u : State) (m : List Host.Cell) : State := { u with mem := m }

section

variable (u : State) (m : List Host.Cell)

theorem writeReg_withMem (r : Reg) (v : Word) : (withMem u m).writeReg r v = withMem (u.writeReg r v) m := by
  unfold State.writeReg
  split <;> rfl

theorem take_withMem (c : Cause) : (withMem u m).take c = withMem (u.take c) m := rfl

theorem takeError_withMem (e : AccessError) : (withMem u m).takeError e = withMem (u.takeError e) m := by
  cases e <;> rfl

theorem takeMdp_withMem (acc : Access) : (withMem u m).takeMdp acc = withMem (u.takeMdp acc) m := rfl

theorem notifyEnd_withMem : (withMem u m).notifyEnd = withMem u.notifyEnd m := by
  have ep : (withMem u m).pswEP = u.pswEP := rfl
  rw [State.notifyEnd, State.notifyEnd, ep]
  split <;> rfl

theorem writePsw_withMem (v : Word) : (withMem u m).writePsw v = withMem (u.writePsw v) m := by
  by_cases same : ({ u with psw := u.ldsrPsw v } : State).pswIMP = u.pswIMP
  · rw [writePsw_of_same same]
    exact writePsw_of_same (s := withMem u m) same
  · rw [writePsw_of_change same]
    exact writePsw_of_change (s := withMem u m) same

theorem writeSys_withMem (q : SysReg) (v : Word) : (withMem u m).writeSys q v = withMem (u.writeSys q v) m := by
  by_cases group : q.protectionGroup = true ∧ u.product.protectionPresent = false
  · rw [writeSys_ignored v group.1 group.2]
    exact writeSys_ignored (s := withMem u m) v group.1 group.2
  · have taken : q.protectionGroup = false ∨ u.product.protectionPresent = true := by
      by_cases h : q.protectionGroup = true
      · exact .inr (by simpa using fun e => group ⟨h, e⟩)
      · exact .inl (by simpa using h)
    by_cases own : q ∈ ownRule
    · obtain rfl | rfl | rfl | rfl : q = .psw ∨ q = .mpm ∨ q = .mpc ∨ q = .swCtl := by simpa [ownRule] using own
      · exact writePsw_withMem u m v
      · have present := taken.resolve_left (by decide)
        rw [writeSys_mpm v present]
        exact writeSys_mpm (s := withMem u m) v present
      · have present := taken.resolve_left (by decide)
        rw [writeSys_mpc v present, writeMpc_eq]
        exact (writeSys_mpc (s := withMem u m) v present).trans (writeMpc_eq ..)
      · rw [writeSys_swCtl, writeSwCtl_eq, writeSys_swCtl, writeSwCtl_eq]
        rfl
    · rw [writeSys_store v own taken]
      exact writeSys_store (s := withMem u m) v own taken

theorem ldsrTrusted_withMem (q : Option SysReg) (v : Word) :
    (withMem u m).ldsrTrusted q v = withMem (u.ldsrTrusted q v) m := by
  cases q with
  | none => rfl
  | some q => exact writeSys_withMem u m q v

theorem ldsrUntrusted_withMem (q : Option SysReg) (v : Word) :
    (withMem u m).ldsrUntrusted q v = withMem (u.ldsrUntrusted q v) m := by
  unfold State.ldsrUntrusted
  split
  · exact writeSys_withMem u m .ctbp v
  · rfl
  · rw [recordSysViolation_eq, recordSysViolation_eq]
    rfl

theorem ldsrTo_withMem (n : RegId) (v : Word) : (withMem u m).ldsrTo n v = withMem (u.ldsrTo n v) m := by
  have npv : (withMem u m).pswNPV = u.pswNPV := rfl
  rw [State.ldsrTo, State.ldsrTo, npv]
  split
  · exact ldsrUntrusted_withMem u m _ v
  · exact ldsrTrusted_withMem u m _ v

theorem stsrFrom_withMem (n : RegId) (dst : Reg) : (withMem u m).stsrFrom n dst = withMem (u.stsrFrom n dst) m := by
  by_cases free : resolve u.sys.bsel n = none ∨ resolve u.sys.bsel n = some .dir
  · rw [stsrFrom_free dst free, stsrFrom_free (s := withMem u m) dst free, writeReg_withMem]
    rfl
  · rw [not_or] at free
    obtain ⟨q, named⟩ := Option.ne_none_iff_exists'.mp free.1
    have notDir : q ≠ .dir := fun e => free.2 (e ▸ named)
    rw [stsrFrom_named dst named notDir, stsrFrom_named (s := withMem u m) dst named notDir, writeReg_withMem]
    rfl

theorem divideInto_withMem (d : Division) (r w : Reg) :
    (withMem u m).divideInto d r w = withMem (u.divideInto d r w) m := by
  have written (v : State) : (((withMem v m).writeReg r d.quotient).writeReg w d.remainder).useFree =
      withMem ((v.writeReg r d.quotient).writeReg w d.remainder).useFree m := by
    rw [writeReg_withMem, writeReg_withMem]
    rfl
  unfold State.divideInto
  split
  · exact written (u.withDivFlags (Config.freeBit u.free) (Config.freeBit (u.free + 1)) (Config.freeBit (u.free + 2)))
  · exact written (u.withDivFlags d.ov d.s d.z)

end

/-! ## States that differ in one byte -/

/-- The states are the same, register for register and byte for byte, but for the byte at b. -/
structure Alike (b : Word) (u t : State) : Prop where
  same : t = withMem u t.mem
  bytes : ∀ a, a ≠ b → t.read8 a = u.read8 a

theorem alike_write8 (s : State) (b : Word) (x : Byte) : Alike b s (s.write8 b x) :=
  ⟨rfl, fun a ha => by rw [read8_write8, if_neg ha]⟩

section

variable {b : Word} {u t : State}

/-- What does not look at memory keeps states alike. -/
theorem Alike.blind (h : Alike b u t) (f : State → State) (hf : ∀ u m, f (withMem u m) = withMem (f u) m) :
    Alike b (f u) (f t) := by
  have kept (v : State) : (f v).mem = v.mem := by
    change (f (withMem v v.mem)).mem = v.mem
    rw [hf]
    rfl
  refine ⟨?_, fun a ha => ?_⟩
  · rw [kept, ← hf, ← h.same]
  · rw [State.read8, kept, State.read8, kept]
    exact h.bytes a ha

theorem Alike.writeReg (h : Alike b u t) (r : Reg) (v : Word) : Alike b (u.writeReg r v) (t.writeReg r v) :=
  h.blind (·.writeReg r v) fun u m => writeReg_withMem u m r v

theorem Alike.setPswBit (h : Alike b u t) (k : Nat) (v : Bool) : Alike b (u.setPswBit k v) (t.setPswBit k v) :=
  h.blind (·.setPswBit k v) fun _ _ => rfl

theorem Alike.withFlags (h : Alike b u t) (f : Flags) : Alike b (u.withFlags f) (t.withFlags f) :=
  h.blind (·.withFlags f) fun _ _ => rfl

theorem Alike.withSatFlags (h : Alike b u t) (f : Flags) : Alike b (u.withSatFlags f) (t.withSatFlags f) :=
  h.blind (·.withSatFlags f) fun _ _ => rfl

theorem Alike.setPc (h : Alike b u t) (v : Word) : Alike b (u.setPc v) (t.setPc v) :=
  h.blind (·.setPc v) fun _ _ => rfl

theorem Alike.advance (h : Alike b u t) (n : Nat) : Alike b (u.advance n) (t.advance n) :=
  h.blind (·.advance n) fun _ _ => rfl

theorem Alike.regOn (h : Alike b u t) (r : Reg) (v : Word) (n : Nat) :
    Alike b ((u.writeReg r v).advance n) ((t.writeReg r v).advance n) := (h.writeReg r v).advance n

theorem Alike.saveCall (h : Alike b u t) : Alike b u.saveCall t.saveCall := h.blind State.saveCall fun _ _ => rfl

theorem Alike.halt (h : Alike b u t) : Alike b { u with halted := true } { t with halted := true } :=
  h.blind (fun u => { u with halted := true }) fun _ _ => rfl

theorem Alike.useFree (h : Alike b u t) : Alike b u.useFree t.useFree := h.blind State.useFree fun _ _ => rfl

theorem Alike.take (h : Alike b u t) (c : Cause) : Alike b (u.take c) (t.take c) :=
  h.blind (·.take c) fun u m => take_withMem u m c

theorem Alike.takeError (h : Alike b u t) (e : AccessError) : Alike b (u.takeError e) (t.takeError e) :=
  h.blind (·.takeError e) fun u m => takeError_withMem u m e

theorem Alike.takeMdp (h : Alike b u t) (acc : Access) : Alike b (u.takeMdp acc) (t.takeMdp acc) :=
  h.blind (·.takeMdp acc) fun u m => takeMdp_withMem u m acc

theorem Alike.notifyEnd (h : Alike b u t) : Alike b u.notifyEnd t.notifyEnd := h.blind _ notifyEnd_withMem

theorem Alike.restore (h : Alike b u t) (ret v : Word) : Alike b (u.restore ret v) (t.restore ret v) :=
  h.blind (·.restore ret v) fun _ _ => rfl

theorem Alike.ldsrTo (h : Alike b u t) (n : RegId) (v : Word) : Alike b (u.ldsrTo n v) (t.ldsrTo n v) :=
  h.blind (·.ldsrTo n v) fun u m => ldsrTo_withMem u m n v

theorem Alike.stsrFrom (h : Alike b u t) (n : RegId) (dst : Reg) : Alike b (u.stsrFrom n dst) (t.stsrFrom n dst) :=
  h.blind (·.stsrFrom n dst) fun u m => stsrFrom_withMem u m n dst

theorem Alike.divideInto (h : Alike b u t) (d : Division) (r w : Reg) : Alike b (u.divideInto d r w) (t.divideInto d r w) :=
  h.blind (·.divideInto d r w) fun u m => divideInto_withMem u m d r w

theorem Alike.violates (h : Alike b u t) (acc : Access) : t.violates acc = u.violates acc := by
  rw [h.same]
  rfl

theorem Alike.readReg (h : Alike b u t) (r : Reg) : t.readReg r = u.readReg r := by
  rw [h.same]
  rfl

/-- A jump to what a register holds. -/
theorem Alike.jump (h : Alike b u t) (r : Reg) : Alike b (u.setPc (u.readReg r)) (t.setPc (t.readReg r)) := by
  rw [h.readReg]
  exact h.setPc _

/-! ## Bus accesses -/

theorem Alike.anyIo (h : Alike b u t) (a : Word) (n : Nat) : t.anyIo a n = u.anyIo a n := by
  rw [h.same]
  rfl

theorem Alike.answer (h : Alike b u t) : t.answer = u.answer := by
  rw [h.same]
  rfl

theorem Alike.note (h : Alike b u t) (e : Event) : Alike b (u.note e) (t.note e) := h.blind (·.note e) fun _ _ => rfl

theorem Alike.readCycle (h : Alike b u t) (a : Word) (n : Nat) : Alike b (u.readCycle a n) (t.readCycle a n) := by
  rw [State.readCycle, State.readCycle, h.anyIo]
  split
  · exact h.note _
  · exact h

theorem Alike.foldl {α : Type} {f : State → α → State} (hf : ∀ u t x, Alike b u t → Alike b (f u x) (f t x)) (l : List α)
    (h : Alike b u t) : Alike b (l.foldl f u) (l.foldl f t) := by
  induction l generalizing u t with
  | nil => exact h
  | cons x l ih => exact ih (hf u t x h)

theorem Alike.byteReads (h : Alike b u t) (a : Word) (k : Nat) : Alike b (u.byteReads a k) (t.byteReads a k) :=
  h.foldl (f := fun u j => u.readCycle (a + BitVec.ofNat 32 j) 1)
    (fun _ _ j g => g.readCycle (a + BitVec.ofNat 32 j) 1) (List.range k)

theorem Alike.cycleError (h : Alike b u t) (a : Word) (n : Nat) : t.cycleError a n = u.cycleError a n := by
  rw [State.cycleError, State.cycleError, h.anyIo, h.answer]

theorem Alike.byteError (h : Alike b u t) (a : Word) : t.byteError a = u.byteError a :=
  funext fun k => (h.byteReads a k).cycleError _ 1

theorem Alike.busError (h : Alike b u t) (a : Word) (n : Nat) : t.busError a n = u.busError a n := by
  rw [State.busError, State.busError, h.cycleError, h.byteError]

theorem Alike.byteCycles (h : Alike b u t) (a : Word) (n : Nat) : t.byteCycles a n = u.byteCycles a n := by
  rw [State.byteCycles, State.byteCycles, h.byteError]

theorem Alike.afterRead (h : Alike b u t) (a : Word) (n : Nat) : Alike b (u.afterRead a n) (t.afterRead a n) := by
  rw [State.afterRead, State.afterRead, h.byteCycles]
  split
  · exact h.readCycle a n
  · exact h.byteReads a _

theorem Alike.cycleByte (h : Alike b u t) {a : Word} {n k : Nat} (ha : a + BitVec.ofNat 32 k ≠ b) :
    t.cycleByte a n k = u.cycleByte a n k := by
  rw [State.cycleByte, State.cycleByte, h.anyIo, h.answer, h.bytes _ ha]

/-- A read of other bytes than b gives the same. -/
theorem Alike.busByte (h : Alike b u t) {a : Word} {n k : Nat} (ha : a + BitVec.ofNat 32 k ≠ b) :
    t.busByte a n k = u.busByte a n k := by
  rw [State.busByte, State.busByte, h.cycleByte ha, (h.byteReads a k).cycleByte (by simpa using ha)]

theorem Alike.write8 (h : Alike b u t) (a : Word) (x : Byte) : Alike b (u.write8 a x) (t.write8 a x) := by
  refine ⟨?_, fun c hc => ?_⟩
  · have same := congrArg (fun v => withMem v (t.write8 a x).mem) h.same
    exact same
  · rw [read8_write8, read8_write8, h.bytes c hc]

theorem Alike.writeCycle (h : Alike b u t) (a : Word) (n : Nat) (v : Word) :
    Alike b (u.writeCycle a n v) (t.writeCycle a n v) := by
  unfold State.writeCycle
  rw [h.anyIo]
  split
  · exact h.note _
  · split
    · exact h.write8 ..
    · exact (h.write8 ..).write8 ..
    · exact (((h.write8 ..).write8 ..).write8 ..).write8 ..

theorem Alike.byteWrites (h : Alike b u t) (a v : Word) (k : Nat) : Alike b (u.byteWrites a v k) (t.byteWrites a v k) :=
  h.foldl (f := fun u j => u.writeCycle (a + BitVec.ofNat 32 j) 1 ((byteOf v j).setWidth 32))
    (fun _ _ j g => g.writeCycle (a + BitVec.ofNat 32 j) 1 _) (List.range k)

/-- The same write keeps states alike, at whatever address. -/
theorem Alike.busWrite (h : Alike b u t) (a : Word) (n : Nat) (v : Word) : Alike b (u.busWrite a n v) (t.busWrite a n v) := by
  rw [State.busWrite, State.busWrite, h.busError, h.byteCycles]
  split
  · exact h.writeCycle a n v
  · split
    · exact h.byteWrites a v n
    · have written := h.byteWrites a v (u.byteCycles a n)
      have same := congrArg (fun w => withMem w t.mem) written.same
      exact ⟨same, h.bytes⟩

/-! ## Checked accesses -/

theorem Alike.access (h : Alike b u t) {acc : Access} {x y : State} (done : u.violates acc = false → Alike b x y) :
    Alike b (u.access acc x) (t.access acc y) := by
  rw [State.access, State.access, h.violates]
  cases ok : u.violates acc with
  | true => exact h.takeMdp acc
  | false => exact done ok

theorem Alike.reading (h : Alike b u t) {a : Word} {n : Nat} {f g : State → State}
    (rest : Alike b (u.afterRead a n) (t.afterRead a n) → Alike b (f (u.afterRead a n)) (g (t.afterRead a n))) :
    Alike b (u.reading a n f) (t.reading a n g) := by
  have read := h.afterRead a n
  rw [State.reading, State.reading, h.busError]
  split
  · exact read.takeError _
  · exact rest read

theorem Alike.writing (h : Alike b u t) {a v : Word} {n : Nat} {f g : State → State}
    (rest : Alike b (u.busWrite a n v) (t.busWrite a n v) → Alike b (f (u.busWrite a n v)) (g (t.busWrite a n v))) :
    Alike b (u.writing a n v f) (t.writing a n v g) := by
  have written := h.busWrite a n v
  rw [State.writing, State.writing, h.busError]
  split
  · exact written.takeError _
  · exact rest written

/-- The byte lies in no area in force with R = 1, and DMP = 1. -/
def Unreadable (b : Word) (s : State) : Prop :=
  s.pswDMP = true ∧ ¬∃ n : Fin 4, AreaCovers s n b.toNat b.toNat ∧ AreaGrants s n .r

theorem Unreadable.congr (h : Unreadable b u) (hp : t.psw = u.psw) (hs : t.sys = u.sys) : Unreadable b t := by
  unfold Unreadable State.pswDMP AreaCovers areaLow areaHigh AreaGrants at *
  rw [hp, hs]
  exact h

/-- A permitted access that reads does not touch the byte. -/
theorem Unreadable.untouched (h : Unreadable b u) {acc : Access} (ok : u.violates acc = false) (need : Needs acc .r) {k : Nat}
    (hk : k < acc.size) : acc.addr + BitVec.ofNat 32 k ≠ b := by
  obtain ⟨dmp, unreadable⟩ := h
  intro e
  have granted := granted_of_permitted dmp ok need hk
  rw [e] at granted
  exact unreadable granted

theorem Alike.busRead8 (h : Alike b u t) (hb : Unreadable b u) {acc : Access} (ok : u.violates acc = false)
    (need : Needs acc .r) (hn : acc.size = 1) : t.busRead8 acc.addr = u.busRead8 acc.addr :=
  h.busByte (hb.untouched ok need (by omega))

theorem Alike.busRead16 (h : Alike b u t) (hb : Unreadable b u) {acc : Access} (ok : u.violates acc = false)
    (need : Needs acc .r) (hn : acc.size = 2) : t.busRead16 acc.addr = u.busRead16 acc.addr := by
  rw [State.busRead16, State.busRead16, h.busByte (hb.untouched ok need (by omega)),
    h.busByte (hb.untouched ok need (by omega))]

theorem Alike.busRead32 (h : Alike b u t) (hb : Unreadable b u) {acc : Access} (ok : u.violates acc = false)
    (need : Needs acc .r) (hn : acc.size = 4) : t.busRead32 acc.addr = u.busRead32 acc.addr := by
  rw [State.busRead32, State.busRead32, h.busByte (hb.untouched ok need (by omega)),
    h.busByte (hb.untouched ok need (by omega)), h.busByte (hb.untouched ok need (by omega)),
    h.busByte (hb.untouched ok need (by omega))]

/-- A load of the same datum. -/
theorem Alike.load (h : Alike b u t) (acc : Access) {v w : Word} (datum : u.violates acc = false → w = v) (r : Reg) (n : Nat) :
    Alike b (u.access acc (u.reading acc.addr acc.size fun x => x.load r v n))
      (t.access acc (t.reading acc.addr acc.size fun x => x.load r w n)) :=
  h.access fun ok => h.reading fun read => by
    rw [datum ok]
    exact read.regOn r v n

theorem Alike.store (h : Alike b u t) (acc : Access) (a : Word) (size : Nat) (v : Word) (n : Nat) :
    Alike b (u.access acc (u.writing a size v fun x => x.advance n))
      (t.access acc (t.writing a size v fun x => x.advance n)) :=
  h.access fun _ => h.writing fun written => written.advance n

theorem Alike.modifyBit (h : Alike b u t) (hb : Unreadable b u) (op : BitOp) (a : Word) (sp : Bool) (k n : Nat) :
    Alike b (u.access (modifyAccess a 1 sp) (u.modifyBit op a k n))
      (t.access (modifyAccess a 1 sp) (t.modifyBit op a k n)) :=
  h.access fun ok => by
    have byte : t.busRead8 a = u.busRead8 a :=
      h.busRead8 (acc := modifyAccess a 1 sp) hb ok ⟨nofun, nofun⟩ rfl
    rw [State.modifyBit, State.modifyBit, byte]
    exact h.reading fun read => read.writing fun written => (written.setPswBit 0 _).advance n

theorem Alike.readBit (h : Alike b u t) (hb : Unreadable b u) {acc : Access} (need : Needs acc .r) (hn : acc.size = 1)
    (k n : Nat) : Alike b (u.access acc (u.readBit acc.addr k n)) (t.access acc (t.readBit acc.addr k n)) :=
  h.access fun ok => by
    rw [State.readBit, State.readBit, h.busRead8 hb ok need hn]
    exact h.reading fun read => (read.setPswBit 0 _).advance n

/-! ## The runs of PREPARE and DISPOSE -/

/-- The runs came equally far, to states that are alike. -/
structure AlikeRun (b : Word) (x y : StackRun) : Prop where
  state : Alike b x.state y.state
  adr : y.adr = x.adr
  stop : y.stop = x.stop

theorem Alike.pushRegs (h : Alike b u t) (L : List Reg) (adr : Word) : AlikeRun b (pushRegs L adr u) (pushRegs L adr t) := by
  induction L generalizing adr u t with
  | nil => exact ⟨h, rfl, rfl⟩
  | cons r L ih =>
    unfold Machine.pushRegs
    have written := h.busWrite (wordAlign (adr - 4)) 4 (u.readReg r)
    rw [h.violates, h.busError, h.readReg]
    split
    · exact ⟨h, rfl, rfl⟩
    · split
      · exact ⟨written, rfl, rfl⟩
      · exact ih written (adr - 4)

theorem Alike.popRegs (h : Alike b u t) (hb : Unreadable b u) (L : List Reg) (adr : Word) :
    AlikeRun b (popRegs L adr u) (popRegs L adr t) := by
  induction L generalizing adr u t with
  | nil => exact ⟨h, rfl, rfl⟩
  | cons r L ih =>
    unfold Machine.popRegs
    have read := h.afterRead (wordAlign adr) 4
    rw [h.violates, h.busError]
    cases ok : u.violates (popAccess (wordAlign adr)) with
    | true => exact ⟨h, rfl, rfl⟩
    | false =>
      have datum : t.busRead32 (wordAlign adr) = u.busRead32 (wordAlign adr) :=
        h.busRead32 (acc := popAccess (wordAlign adr)) hb ok ⟨nofun, nofun⟩ rfl
      rw [datum]
      simp only [Bool.false_eq_true, if_false]
      split
      · exact ⟨read, rfl, rfl⟩
      · exact ih (read.writeReg r _) (hb.congr (by simp) (by simp)) (adr + 4)

theorem AlikeRun.finish {x y : StackRun} {f g : State → Word → State} (h : AlikeRun b x y)
    (rest : Alike b (f x.state x.adr) (g y.state x.adr)) : Alike b (x.finish f) (y.finish g) := by
  rw [StackRun.finish, StackRun.finish, h.stop, h.adr]
  split
  · exact h.state.takeMdp _
  · exact h.state.takeError _
  · exact rest

end

/-! ## Every instruction -/

/-- An instruction ends alike from states that are alike but for an unreadable byte. -/
theorem exec_alike {i : Instr} {s t : State} {b : Word} {m : List Host.Cell} (h : Alike b s (withMem s m))
    (hb : Unreadable b s) (hi : ∀ v, i ≠ .syscall v) (he : exec i s = .next t) :
    ∃ t', exec i (withMem s m) = .next t' ∧ Alike b t t' := by
  cases i with
  | nop | synce | syncm | syncp => cases he; exact ⟨_, rfl, h.advance _⟩
  | halt => cases he; exact ⟨_, rfl, (h.advance 4).halt⟩
  | di | ei => cases he; exact ⟨_, rfl, (h.setPswBit 5 _).advance 4⟩
  | mov | movImm5 | movImm32 | movea | movhi | sxb | sxh | zxb | zxh | setf | sasf | cmov | cmovImm5 | mulh | mulhImm5
  | mulhi => cases he; exact ⟨_, rfl, h.regOn _ _ _⟩
  | mul | mulImm9 | mulu | muluImm9 | mac | macu => cases he; exact ⟨_, rfl, (h.writeReg _ _).regOn _ _ _⟩
  | add | addImm5 | addi | adf | sub | subr | sbf | and | andi | or | ori | xor | xori | not | shl | shlImm5 | shl3 | shr
  | shrImm5 | shr3 | sar | sarImm5 | sar3 | bsw | bsh | hsw | hsh | sch0l | sch0r | sch1l | sch1r =>
    cases he; exact ⟨_, rfl, (h.withFlags _).regOn _ _ _⟩
  | cmp | cmpImm5 | tst => cases he; exact ⟨_, rfl, (h.withFlags _).advance _⟩
  | satadd | sataddImm5 | satadd3 | satsub | satsub3 | satsubi | satsubr =>
    cases he; exact ⟨_, rfl, (h.withSatFlags _).regOn _ _ _⟩
  | div | divu | divq | divqu | divh3 | divhu => cases he; exact ⟨_, rfl, (h.divideInto _ _ _).advance 4⟩
  | divh => cases he; exact ⟨_, rfl, (((h.withFlags _).writeReg _ _).useFree).advance 2⟩
  | stsr => cases he; exact ⟨_, rfl, (h.stsrFrom _ _).advance 4⟩
  | ldsr => cases he; exact ⟨_, rfl, (h.ldsrTo _ _).advance 4⟩
  | bcond cc d =>
    cases he
    refine ⟨_, rfl, ?_⟩
    have cond : (withMem s m).cond cc = s.cond cc := rfl
    rw [cond]
    split
    · exact h.setPc _
    · exact h.advance _
  | jmp | jmpDisp32 | jrDisp22 | jrDisp32 => cases he; exact ⟨_, rfl, h.setPc _⟩
  | jarlDisp22 | jarlDisp32 => cases he; exact ⟨_, rfl, (h.writeReg _ _).setPc _⟩
  | rie | rieImm | fetrap | trap => cases he; exact ⟨_, rfl, h.take _⟩
  | syscall v => exact absurd rfl (hi v)
  | ctret => cases he; exact ⟨_, rfl, h.restore _ _⟩
  | eiret | feret => cases he; exact ⟨_, rfl, h.notifyEnd.restore _ _⟩
  | reti =>
    cases he
    refine ⟨_, rfl, ?_⟩
    have ep : (withMem s m).pswEP = s.pswEP := rfl
    have np : (withMem s m).pswNP = s.pswNP := rfl
    rw [ep, np]
    split
    · exact h.notifyEnd.restore _ _
    · exact h.notifyEnd.restore _ _
  | ldB | ldBDisp23 | sldB =>
    cases he
    exact ⟨_, rfl, h.load (loadAccess _ 1 _)
      (fun ok => congrArg (BitVec.signExtend 32) (h.busRead8 hb ok ⟨nofun, nofun⟩ rfl)) _ _⟩
  | ldBu | ldBuDisp23 | sldBu =>
    cases he
    exact ⟨_, rfl, h.load (loadAccess _ 1 _)
      (fun ok => congrArg (BitVec.setWidth 32) (h.busRead8 hb ok ⟨nofun, nofun⟩ rfl)) _ _⟩
  | ldH | ldHDisp23 | sldH =>
    cases he
    exact ⟨_, rfl, h.load (loadAccess _ 2 _)
      (fun ok => congrArg (BitVec.signExtend 32) (h.busRead16 hb ok ⟨nofun, nofun⟩ rfl)) _ _⟩
  | ldHu | ldHuDisp23 | sldHu =>
    cases he
    exact ⟨_, rfl, h.load (loadAccess _ 2 _)
      (fun ok => congrArg (BitVec.setWidth 32) (h.busRead16 hb ok ⟨nofun, nofun⟩ rfl)) _ _⟩
  | ldW | ldWDisp23 | sldW =>
    cases he
    exact ⟨_, rfl, h.load (loadAccess _ 4 _) (fun ok => h.busRead32 hb ok ⟨nofun, nofun⟩ rfl) _ _⟩
  | stB | stH | stW | stBDisp23 | stHDisp23 | stWDisp23 | sstB | sstH | sstW =>
    cases he; exact ⟨_, rfl, h.store _ _ _ _ _⟩
  | set1 | set1Reg | not1 | not1Reg | clr1 | clr1Reg => cases he; exact ⟨_, rfl, h.modifyBit hb _ _ _ _ _⟩
  | tst1 | tst1Reg => cases he; exact ⟨_, rfl, h.readBit hb (acc := testAccess _ _) ⟨nofun, nofun⟩ rfl _ _⟩
  | caxi R r w =>
    cases he
    refine ⟨_, rfl, h.access fun ok => ?_⟩
    have token : (withMem s m).busRead32 (s.caxiAddr R) = s.busRead32 (s.caxiAddr R) :=
      h.busRead32 (acc := modifyAccess (s.caxiAddr R) 4 (isSp R)) hb ok ⟨nofun, nofun⟩ rfl
    have store : (withMem s m).caxiStore R r w = s.caxiStore R r w :=
      congrArg (fun v => if s.readReg r = v then s.readReg w else v) token
    change Alike b _ (State.reading _ (s.caxiAddr R) 4 fun t => t.writing (s.caxiAddr R) 4 ((withMem s m).caxiStore R r w)
      fun u => ((u.withFlags (subFlags (s.readReg r) ((withMem s m).busRead32 (s.caxiAddr R)) false)).writeReg w
        ((withMem s m).busRead32 (s.caxiAddr R))).advance 4)
    rw [store, token]
    exact h.reading fun read => read.writing fun written => (written.withFlags _).regOn _ _ _
  | callt v =>
    cases he
    refine ⟨_, rfl, h.access fun ok => h.reading fun read => ?_⟩
    have entry : (withMem s m).busRead16 (s.calltEntry v) = s.busRead16 (s.calltEntry v) :=
      h.busRead16 (acc := tableAccess (s.calltEntry v)) hb ok ⟨nofun, nofun⟩ rfl
    change Alike b _ ((State.saveCall _).setPc (s.sys.ctbp + ((withMem s m).busRead16 (s.calltEntry v)).setWidth 32))
    rw [entry]
    exact read.saveCall.setPc _
  | switch R =>
    cases he
    refine ⟨_, rfl, h.access fun ok => h.reading fun read => ?_⟩
    have entry : (withMem s m).busRead16 (s.switchEntry R) = s.busRead16 (s.switchEntry R) :=
      h.busRead16 (acc := tableAccess (s.switchEntry R)) hb ok ⟨nofun, nofun⟩ rfl
    change Alike b _ (State.setPc _ (s.pc + 2 + ((withMem s m).busRead16 (s.switchEntry R)).signExtend 32 <<< 1))
    rw [entry]
    exact read.setPc _
  | prepare => cases he; exact ⟨_, rfl, (h.pushRegs _ _).finish (Alike.regOn (h.pushRegs _ _).state _ _ _)⟩
  | prepareSp | prepareImm16 | prepareImm16Hi | prepareImm32 =>
    cases he; exact ⟨_, rfl, (h.pushRegs _ _).finish (Alike.regOn ((h.pushRegs _ _).state.writeReg _ _) _ _ _)⟩
  | dispose => cases he; exact ⟨_, rfl, (h.popRegs hb _ _).finish (Alike.regOn (h.popRegs hb _ _).state _ _ _)⟩
  | disposeJmp =>
    cases he
    exact ⟨_, rfl, (h.popRegs hb _ _).finish (((h.popRegs hb _ _).state.writeReg _ _).jump _)⟩

/-- Settles O59: the two states before the instruction are alike. -/
theorem unreadableBytesDoNotInfluence : Obligations.UnreadableBytesDoNotInfluence := by
  intro i s t b x dmp notSyscall unreadable he
  obtain ⟨t', run, alike⟩ := exec_alike (alike_write8 s b x) ⟨dmp, unreadable⟩ notSyscall he
  exact ⟨t', run, alike.same, alike.bytes⟩

end Sys2Proof.Noninterference
end

section
/-! # The decoder reads what the encoder writes -/

namespace Sys2Proof.RoundTrip

open Sys2Proof Sys2Proof.Laws

/-! ## Bytes and halfwords (R108) -/

/-- The halfwords of a list of bytes that begins with given halfwords. -/
theorem halfAt_flatMap (hs : List Half) (rest : List Byte) (k : Nat) :
    halfAt (hs.flatMap halfBytes ++ rest) k = hs.getD k (halfAt rest (k - hs.length)) := by
  induction hs generalizing k with
  | nil => rfl
  | cons h hs ih =>
    rw [List.flatMap_cons, List.append_assoc]
    cases k with
    | zero => exact halfAt_zero h _
    | succ k =>
      rw [halfAt_succ, ih]
      simp

theorem length_flatMap_halfBytes (hs : List Half) : (hs.flatMap halfBytes).length = 2 * hs.length := by
  induction hs with
  | nil => rfl
  | cons h hs ih =>
    rw [List.flatMap_cons, List.length_append, ih, List.length_cons]
    simp [halfBytes]
    omega

/-! ## Fields -/

/-- Two neighbouring fields are one field. -/
theorem field_of_parts {w s m n : Nat} {x : BitVec w} {a : BitVec m} {b : BitVec n} (ha : x.extractLsb' (s + n) m = a)
    (hb : x.extractLsb' s n = b) : x.extractLsb' s (m + n) = a ++ b := by
  subst ha hb
  exact (BitVec.extractLsb'_append_extractLsb'_eq_extractLsb' rfl).symm

theorem extractLsb'_extractLsb' {w : Nat} (x : BitVec w) (s m t n : Nat) (h : t + n ≤ m) :
    (x.extractLsb' s m).extractLsb' t n = x.extractLsb' (s + t) n := by
  apply BitVec.eq_of_getLsbD_eq
  intro k hk
  simp [hk, Nat.add_assoc]
  grind

/-- A set bit 6 makes bits 6-5 10 or 11. -/
theorem fOp2_ne_of_bit6 {h : Half} (h6 : h.extractLsb' 6 1 = 1#1) : fOp2 h ≠ 0#2 ∧ fOp2 h ≠ 1#2 := by
  have top : (fOp2 h).extractLsb' 1 1 = 1#1 := (extractLsb'_extractLsb' h 5 2 1 1 (by omega)).trans h6
  exact ⟨ne_of_field 1 1 (by rw [top]; decide), ne_of_field 1 1 (by rw [top]; decide)⟩

/-- Low bits that differ make sub5 differ. -/
theorem fSub5_ne {h : Half} {c : BitVec 5} (h4 : h.extractLsb' 0 4 ≠ c.extractLsb' 0 4) : fSub5 h ≠ c := by
  refine ne_of_field 0 4 ?_
  rwa [fSub5, extractLsb'_extractLsb' h 0 5 0 4 (by omega)]

/-- High bits that differ make sub6 differ. -/
theorem fSub6_ne {h : Half} {c : BitVec 6} (h5 : h.extractLsb' 6 5 ≠ c.extractLsb' 1 5) : fSub6 h ≠ c := by
  refine ne_of_field 1 5 ?_
  rwa [fSub6, extractLsb'_extractLsb' h 5 6 1 5 (by omega)]

/-! The operands that an encoding cuts in two are their parts. -/

@[simp] theorem disp31_parts (d : BitVec 31) : d.extractLsb' 15 16 ++ d.extractLsb' 0 15 = d :=
  BitVec.extractLsb'_append_extractLsb' (w := 16)

@[simp] theorem disp23_parts (d : BitVec 23) : d.extractLsb' 7 16 ++ d.extractLsb' 0 7 = d :=
  BitVec.extractLsb'_append_extractLsb' (w := 16)

@[simp] theorem disp22h_parts (d : BitVec 22) : d.extractLsb' 6 16 ++ d.extractLsb' 0 6 = d :=
  BitVec.extractLsb'_append_extractLsb' (w := 16)

@[simp] theorem disp21_parts (d : BitVec 21) : d.extractLsb' 15 6 ++ d.extractLsb' 0 15 = d :=
  BitVec.extractLsb'_append_extractLsb' (w := 6)

@[simp] theorem disp16_parts (d : Half) : d.extractLsb' 1 15 ++ d.extractLsb' 0 1 = d :=
  BitVec.extractLsb'_append_extractLsb' (w := 15)

@[simp] theorem disp8_parts (d : BitVec 8) : d.extractLsb' 3 5 ++ d.extractLsb' 0 3 = d :=
  BitVec.extractLsb'_append_extractLsb' (w := 5)

@[simp] theorem imm32_parts (i : Word) : i.extractLsb' 16 16 ++ i.extractLsb' 0 16 = i :=
  BitVec.extractLsb'_append_extractLsb' (w := 16)

@[simp] theorem imm9_parts (i : BitVec 9) : i.extractLsb' 5 4 ++ i.extractLsb' 0 5 = i :=
  BitVec.extractLsb'_append_extractLsb' (w := 4)

@[simp] theorem vector8_parts (v : BitVec 8) : v.extractLsb' 5 3 ++ v.extractLsb' 0 5 = v :=
  BitVec.extractLsb'_append_extractLsb' (w := 3)

@[simp] theorem list_parts (l : RegList) : l.extractLsb' 1 11 ++ l.extractLsb' 0 1 = l :=
  BitVec.extractLsb'_append_extractLsb' (w := 11)

section

variable (r R : Reg) (op : BitVec 6)

@[simp] theorem fReg2_opHalf : fReg2 (opHalf r op R) = r := by simp [fReg2, opHalf, cat3_hi]

@[simp] theorem fReg1_opHalf : fReg1 (opHalf r op R) = R := by simp [fReg1, opHalf, cat3_lo]

@[simp] theorem fOp4_opHalf : fOp4 (opHalf r op R) = op.extractLsb' 2 4 := by simp [fOp4, opHalf, cat3_mid]

@[simp] theorem fOp2_opHalf : fOp2 (opHalf r op R) = op.extractLsb' 0 2 := by simp [fOp2, opHalf, cat3_mid]

/-- A field of op6 alone. -/
theorem opHalf_mid {s n : Nat} (h : 5 ≤ s) (h' : s + n ≤ 11) : (opHalf r op R).extractLsb' s n = op.extractLsb' (s - 5) n :=
  cat3_mid r op R s n h h' (by omega)

/-- A field of reg2 alone. -/
theorem opHalf_hi {s n : Nat} (h : 11 ≤ s) (h' : s + n ≤ 16) : (opHalf r op R).extractLsb' s n = r.extractLsb' (s - 11) n := by
  rw [opHalf, cat3_hi r op R s n h h', Nat.sub_sub]

/-- A field of reg1 alone. -/
theorem opHalf_lo {s n : Nat} (h : s + n ≤ 5) : (opHalf r op R).extractLsb' s n = R.extractLsb' s n :=
  cat3_lo r op R s n h (by omega)

end

/-! ## The decision tree -/

/-- The parts of the decision tree (R189 to R191). -/
inductive Part where
  | low | regReg | imm5 | short | imm16 | disp16 | long | frame | extLow | extHigh

/-- Where the decision tree finds an instruction. -/
def part : Instr → Part
  | .nop | .synce | .syncm | .syncp | .mov .. | .not .. | .rie | .switch .. | .fetrap .. | .divh .. | .jmp .. | .sldBu ..
  | .sldHu .. | .zxb .. | .sxb .. | .zxh .. | .sxh .. | .satsubr .. | .satsub .. | .satadd .. | .mulh .. => .low
  | .or .. | .xor .. | .and .. | .tst .. | .subr .. | .sub .. | .add .. | .cmp .. => .regReg
  | .movImm5 .. | .sataddImm5 .. | .addImm5 .. | .cmpImm5 .. | .callt .. | .shrImm5 .. | .sarImm5 .. | .shlImm5 ..
  | .mulhImm5 .. | .jrDisp32 .. | .jarlDisp32 .. => .imm5
  | .sldB .. | .sstB .. | .sldH .. | .sstH .. | .sldW .. | .sstW .. | .bcond .. => .short
  | .addi .. | .movImm32 .. | .movea .. | .movhi .. | .satsubi .. | .dispose .. | .disposeJmp .. | .ori .. | .xori ..
  | .andi .. | .mulhi .. | .jmpDisp32 .. => .imm16
  | .ldB .. | .ldH .. | .ldW .. | .stB .. | .stH .. | .stW .. => .disp16
  | .jrDisp22 .. | .jarlDisp22 .. | .ldBu .. | .set1 .. | .not1 .. | .clr1 .. | .tst1 .. | .ldHu .. => .long
  | .prepare .. | .prepareSp .. | .prepareImm16 .. | .prepareImm16Hi .. | .prepareImm32 .. | .ldBDisp23 .. | .ldHDisp23 ..
  | .ldWDisp23 .. | .stBDisp23 .. | .stWDisp23 .. | .ldBuDisp23 .. | .ldHuDisp23 .. | .stHDisp23 .. => .frame
  | .shr3 .. | .sar3 .. | .shl3 .. | .caxi .. | .syscall .. | .setf .. | .rieImm .. | .ldsr .. | .stsr .. | .shr .. | .sar ..
  | .shl .. | .set1Reg .. | .not1Reg .. | .clr1Reg .. | .tst1Reg .. | .trap .. | .halt | .reti | .ctret | .eiret | .feret
  | .di | .ei => .extLow
  | .sasf .. | .mul .. | .mulu .. | .mulImm9 .. | .muluImm9 .. | .divh3 .. | .divhu .. | .div .. | .divu .. | .divq ..
  | .divqu .. | .cmovImm5 .. | .cmov .. | .bsw .. | .bsh .. | .hsw .. | .hsh .. | .sch0r .. | .sch1r .. | .sch0l ..
  | .sch1l .. | .sbf .. | .satsub3 .. | .adf .. | .satadd3 .. | .mac .. | .macu .. => .extHigh

/-- The halfwords of a well-formed instruction are decoded to it, whatever follows them. -/
def Reads (i : Instr) : Prop :=
  i.WellFormed → ∀ h2 h3 h4 : Half,
    decodeHalfwords ((encode i).getD 0 0) ((encode i).getD 1 h2) ((encode i).getD 2 h3) ((encode i).getD 3 h4) = some i

theorem append_ne_zero (v : BitVec 4) : v ≠ 0 → 0#1 ++ v ≠ 0#5 := by
  revert v
  decide

theorem reads_low {i : Instr} (h : part i = .low) : Reads i := by
  intro wf h2 h3 h4
  cases i with
  | nop | synce | syncm | syncp | rie => rfl
  | mov | not | switch | divh | jmp | zxb | sxb | zxh | sxh | satsubr | satsub | satadd | mulh =>
    simp_all [Instr.WellFormed, Instr.wellFormed, encode, decodeHalfwords, decodeLow, opHalf_mid]
  | sldBu | sldHu =>
    simp_all [Instr.WellFormed, Instr.wellFormed, encode, decodeHalfwords, decodeLow, fOp4, fOp2, fReg2, cat3_lo, cat3_mid,
      cat3_hi]
  | fetrap v =>
    have vector : (cat3 0b0#1 v 0b00001000000#11).extractLsb' 11 5 = 0#1 ++ v :=
      field_of_parts (s := 11) (m := 1) (n := 4) (by simp [cat3_hi]) (by simp [cat3_mid])
    have notZero := append_ne_zero v (by simpa [Instr.WellFormed, Instr.wellFormed] using wf)
    simp [encode, decodeHalfwords, decodeLow, fOp4, fOp2, fReg1, fReg2, cat3_lo, cat3_mid, cat3_hi, vector, notZero]
  | _ => cases h

theorem reads_regReg {i : Instr} (h : part i = .regReg) : Reads i := by
  intro wf h2 h3 h4
  cases i with
  | or | xor | and | tst | subr | sub | add | cmp => simp [encode, decodeHalfwords, decodeRegReg, opHalf_mid]
  | _ => cases h

theorem reads_imm5 {i : Instr} (h : part i = .imm5) : Reads i := by
  intro wf h2 h3 h4
  cases i with
  | movImm5 | sataddImm5 | addImm5 | cmpImm5 | shrImm5 | sarImm5 | shlImm5 | mulhImm5 =>
    simp_all [Instr.WellFormed, Instr.wellFormed, encode, decodeHalfwords, decodeImm5, opHalf_mid]
  | callt =>
    simp [encode, decodeHalfwords, decodeImm5, fOp4, fReg2, cat2_lo, cat2_hi]
  | jrDisp32 | jarlDisp32 =>
    simp_all [Instr.WellFormed, Instr.wellFormed, encode, decodeHalfwords, decodeImm5, opHalf_hi, opHalf_mid, opHalf_lo, fOp4,
      fOp2, fReg1, fReg2, fBit16, fDisp31, fDisp15, cat2_lo, cat2_hi]
  | _ => cases h

theorem reads_short {i : Instr} (h : part i = .short) : Reads i := by
  intro wf h2 h3 h4
  cases i with
  | sldB | sstB | sldH | sstH => simp [encode, decodeHalfwords, decodeShort, fOp4, fReg2, cat3_lo, cat3_mid, cat3_hi]
  | sldW | sstW | bcond =>
    simp [encode, decodeHalfwords, decodeShort, fOp4, fReg2, fCond1, cat4_0, cat4_1, cat4_2, cat4_3]
  | _ => cases h

theorem reads_imm16 {i : Instr} (h : part i = .imm16) : Reads i := by
  intro wf h2 h3 h4
  cases i with
  | addi | movImm32 | movea | movhi | satsubi | ori | xori | andi | mulhi =>
    simp_all [Instr.WellFormed, Instr.wellFormed, encode, decodeHalfwords, decodeImm16, opHalf_mid]
  | dispose | disposeJmp =>
    simp_all [Instr.WellFormed, Instr.wellFormed, encode, decodeHalfwords, decodeImm16, stackHalf, listHalf, fOp4, fReg2, fSub5,
      fImm5, fList, fOp2_ne_of_bit6, cat2_lo, cat2_hi, cat4_0, cat4_1, cat4_2, cat4_3]
  | jmpDisp32 =>
    simp [encode, decodeHalfwords, decodeImm16, opHalf_mid, fBit16, fDisp31, fDisp15, cat2_lo, cat2_hi]
  | _ => cases h

theorem reads_disp16 {i : Instr} (h : part i = .disp16) : Reads i := by
  intro wf h2 h3 h4
  cases i with
  | ldB | ldH | ldW | stB | stH | stW =>
    simp [encode, decodeHalfwords, decodeDisp16, opHalf_mid, fBit16, fDisp15, cat2_lo, cat2_hi]
  | _ => cases h

/-- The major opcode 1111xx. -/
theorem decodeHalfwords_long {h1 : Half} (h : fOp4 h1 = 0b1111) (h2 h3 h4 : Half) :
    decodeHalfwords h1 h2 h3 h4 = decodeLong h1 h2 h3 h4 := by
  have op : h1.extractLsb' 8 3 = 0b111#3 := by
    have part : (fOp4 h1).extractLsb' 1 3 = h1.extractLsb' 8 3 := by
      apply BitVec.eq_of_getLsbD_eq
      intro k hk
      simp [fOp4, hk]
      grind
    rw [← part, h]
    rfl
  simp [decodeHalfwords, op, h]

theorem reads_long {i : Instr} (h : part i = .long) : Reads i := by
  intro wf h2 h3 h4
  cases i with
  | jrDisp22 | jarlDisp22 | ldBu | ldHu | set1 | not1 | clr1 | tst1 =>
    simp_all [Instr.WellFormed, Instr.wellFormed, encode, decodeHalfwords, decodeLong, opHalf_hi, opHalf_mid, opHalf_lo,
      fOp4, fOp2, fReg1, fReg2, fBit16, fDisp21, fDisp15, cat2_lo, cat2_hi, cat3_lo, cat3_mid, cat3_hi, cat4_0, cat4_1, cat4_2, cat4_3]
  | _ => cases h

/-- Bit 6 and reg2 = 00000 with bit 16 lead to PREPARE and Format XIV. -/
theorem decodeLong_frame {h1 h2 : Half} (h6 : h1.extractLsb' 6 1 = 0#1) (h16 : fBit16 h2 = 1) (hr : fReg2 h1 = 0)
    (h3 h4 : Half) : decodeLong h1 h2 h3 h4 = decodeFrame h1 h2 h3 h4 := by
  simp [decodeLong, h6, h16, hr]

theorem reads_frame {i : Instr} (h : part i = .frame) : Reads i := by
  intro wf h2 h3 h4
  cases i with
  | prepare | prepareSp | prepareImm16 | prepareImm16Hi | prepareImm32 =>
    rw [decodeHalfwords_long (by simp [encode, stackHalf, fOp4, cat4_2]), decodeLong_frame (by simp [encode, stackHalf, cat4_2])
      (by simp [encode, listHalf, fBit16, cat2_lo]) (by simp [encode, stackHalf, fReg2, cat4_3])]
    simp [encode, decodeFrame, stackHalf, listHalf, fSub5, fImm5, fList, cat2_lo, cat2_hi, cat4_0, cat4_1]
  | ldBDisp23 | stBDisp23 | ldBuDisp23 =>
    rw [decodeHalfwords_long (by simp [encode]), decodeLong_frame (by simp [encode, opHalf_mid])
      (by simp [encode, fBit16, cat3_lo]) (by simp [encode])]
    simp [encode, decodeFrame, fSub5_ne, opHalf_mid, fReg3, fDisp23, cat3_lo, cat3_mid, cat3_hi]
  | ldHDisp23 | ldWDisp23 | stWDisp23 | ldHuDisp23 | stHDisp23 =>
    rw [decodeHalfwords_long (by simp [encode]), decodeLong_frame (by simp [encode, opHalf_mid])
      (by simp [encode, fBit16, cat3_lo]) (by simp [encode])]
    simp [encode, decodeFrame, fSub5, opHalf_mid, fReg3, fDisp22h, cat3_lo, cat3_mid, cat3_hi]
  | _ => cases h

/-- The extended group: op6 = 111111 and bit 16 = 0, told apart by bits 26-25. -/
theorem decodeHalfwords_ext {h1 h2 : Half} (op4 : fOp4 h1 = 0b1111) (op2 : fOp2 h1 = 0b11) (h16 : fBit16 h2 = 0) (h3 h4 : Half) :
    decodeHalfwords h1 h2 h3 h4 = if h2.extractLsb' 9 2 = 0b00#2 then decodeExtLow h1 h2 else decodeExtHigh h1 h2 := by
  have bit6 : h1.extractLsb' 6 1 = 1#1 := by
    rw [← extractLsb'_extractLsb' h1 5 2 1 1 (by omega)]
    exact congrArg (BitVec.extractLsb' 1 1) op2
  rw [decodeHalfwords_long op4]
  simp [decodeLong, bit6, op2, h16]

/-- The halfword 1 of reg2, the opcode 111111, and a bit before a 4-bit field: SETF, RIE imm and SASF. -/
theorem condHalf_op {r : Reg} {op : BitVec 7} {c : BitVec 4} (h : op.extractLsb' 1 6 = 0b111111#6) :
    fOp4 (cat3 r op c) = 0b1111 ∧ fOp2 (cat3 r op c) = 0b11 := by
  refine ⟨?_, ?_⟩
  · rw [fOp4, cat3_mid _ _ _ _ _ (by omega) (by omega) (by omega)]
    exact (extractLsb'_extractLsb' op 1 6 2 4 (by omega)).symm.trans (by rw [h]; decide)
  · rw [fOp2, cat3_mid _ _ _ _ _ (by omega) (by omega) (by omega)]
    exact (extractLsb'_extractLsb' op 1 6 0 2 (by omega)).symm.trans (by rw [h]; decide)

theorem reads_extLow {i : Instr} (h : part i = .extLow) : Reads i := by
  intro wf h2 h3 h4
  cases i with
  | halt | reti | ctret | eiret | feret | di | ei =>
    simp [encode, decodeHalfwords, decodeLong, decodeExtLow, fOp4, fOp2, fReg2, fBit16, fSub6, fSub5]
  | ldsr | stsr | shr | sar | shl | set1Reg | not1Reg | clr1Reg | tst1Reg | trap =>
    simp only [encode, List.getD_cons_zero, List.getD_cons_succ]
    rw [decodeHalfwords_ext (by simp) (by simp) (by decide), if_pos (by decide)]
    simp [decodeExtLow, fSub6, fSub5]
  | shr3 | sar3 | shl3 | caxi =>
    simp only [encode, List.getD_cons_zero, List.getD_cons_succ]
    rw [decodeHalfwords_ext (by simp) (by simp) (by simp [fBit16, cat3_lo]), if_pos (by simp [cat3_mid])]
    simp [decodeExtLow, fSub6, fSub5, fReg3, cat3_lo, cat3_mid, cat3_hi]
  | syscall =>
    simp only [encode, List.getD_cons_zero, List.getD_cons_succ]
    rw [decodeHalfwords_ext (by simp) (by simp) (by simp [fBit16, cat4_0]), if_pos (by simp [cat4_1])]
    simp [decodeExtLow, fSub6, fSub5, cat4_0, cat4_1, cat4_2, cat4_3]
  | setf | rieImm =>
    simp only [encode, List.getD_cons_zero, List.getD_cons_succ]
    rw [decodeHalfwords_ext (condHalf_op (by decide)).1 (condHalf_op (by decide)).2 (by decide), if_pos (by decide)]
    simp [decodeExtLow, fSub6, fSub5, fReg2, fCond1, cat3_lo, cat3_mid, cat3_hi]
  | _ => cases h

/-- A halfword 2 whose sub6 is not that of SASF. -/
theorem ne_sasf {h : Half} (sub6 : h.extractLsb' 5 6 ≠ 0b010000#6) : h ≠ 512#16 := ne_of_field 5 6 sub6

theorem ne_sasf_of_imm9 {h : Half} (sub : h.extractLsb' 6 5 ≠ 0b01000#5) : h ≠ 512#16 := ne_of_field 6 5 sub

/-- The condition SA has a code of its own. -/
theorem condBits_ne_sa {cc : Cond} : (cc != .sa) = true → condBits cc ≠ 13#4 := by
  cases cc <;> decide

theorem reads_extHigh {i : Instr} (h : part i = .extHigh) : Reads i := by
  intro wf h2 h3 h4
  cases i with
  | sasf =>
    simp only [encode, List.getD_cons_zero, List.getD_cons_succ]
    rw [decodeHalfwords_ext (condHalf_op (by decide)).1 (condHalf_op (by decide)).2 (by decide), if_neg (by decide)]
    simp [decodeExtHigh, fReg2, fCond1, cat3_lo, cat3_mid, cat3_hi]
  | mul | mulu | divh3 | divhu | div | divu | divq | divqu | bsw | bsh | hsw | hsh | sch0r | sch1r | sch0l | sch1l | satsub3
  | satadd3 =>
    simp only [encode, List.getD_cons_zero, List.getD_cons_succ]
    rw [decodeHalfwords_ext (by simp) (by simp) (by simp [fBit16, cat3_lo]), if_neg (by simp [cat3_mid])]
    simp [decodeExtHigh, ne_sasf, fSub6, fSub5, fMid4, fReg3, cat3_lo, cat3_mid, cat3_hi]
  | mulImm9 | muluImm9 =>
    simp only [encode, List.getD_cons_zero, List.getD_cons_succ]
    rw [decodeHalfwords_ext (by simp) (by simp) (by simp [fBit16, cat4_0]), if_neg (by simp [cat4_2])]
    simp [decodeExtHigh, ne_sasf_of_imm9, fSub6_ne, fReg3, cat4_0, cat4_1, cat4_2, cat4_3]
  | cmovImm5 | cmov =>
    simp only [encode, List.getD_cons_zero, List.getD_cons_succ]
    rw [decodeHalfwords_ext (by simp) (by simp) (by simp [fBit16, cat4_0]), if_neg (by simp [cat4_2])]
    simp [decodeExtHigh, ne_sasf, fSub6, fMid4, fReg3, cat4_1, cat4_2, cat4_3]
  | sbf | adf =>
    have code := condBits_ne_sa wf
    simp only [encode, List.getD_cons_zero, List.getD_cons_succ]
    rw [decodeHalfwords_ext (by simp) (by simp) (by simp [fBit16, cat4_0]), if_neg (by simp [cat4_2])]
    simp [decodeExtHigh, ne_sasf, code, fSub6, fMid4, fReg3, cat4_1, cat4_2, cat4_3]
  | mac | macu =>
    simp only [encode, List.getD_cons_zero, List.getD_cons_succ]
    rw [decodeHalfwords_ext (by simp) (by simp) (by simp [fBit16, cat5_0]), if_neg (by simp [cat5_2])]
    simp [decodeExtHigh, ne_sasf, fSub6, fMid4, cat5_1, cat5_2, cat5_3, cat5_4]
  | _ => cases h

/-! ## Every instruction -/

/-- The decoder reads every well-formed instruction from its halfwords. -/
theorem reads (i : Instr) : Reads i := by
  cases h : part i with
  | low => exact reads_low h
  | regReg => exact reads_regReg h
  | imm5 => exact reads_imm5 h
  | short => exact reads_short h
  | imm16 => exact reads_imm16 h
  | disp16 => exact reads_disp16 h
  | long => exact reads_long h
  | frame => exact reads_frame h
  | extLow => exact reads_extLow h
  | extHigh => exact reads_extHigh h

/-- The length by R188 is the length of the encoding, for every instruction. -/
theorem encodeLength : ∀ i : Instr, EncodeLength.Statement i
  | .nop => EncodeLength.nop | .synce => EncodeLength.synce | .syncm => EncodeLength.syncm
  | .syncp => EncodeLength.syncp | .mov _ _ => EncodeLength.mov _ _ | .not _ _ => EncodeLength.not _ _
  | .rie => EncodeLength.rie | .switch _ => EncodeLength.switch _ | .fetrap _ => EncodeLength.fetrap _
  | .divh _ _ => EncodeLength.divh _ _ | .jmp _ => EncodeLength.jmp _ | .sldBu _ _ => EncodeLength.sldBu _ _
  | .sldHu _ _ => EncodeLength.sldHu _ _ | .zxb _ => EncodeLength.zxb _ | .sxb _ => EncodeLength.sxb _
  | .zxh _ => EncodeLength.zxh _ | .sxh _ => EncodeLength.sxh _ | .satsubr _ _ => EncodeLength.satsubr _ _
  | .satsub _ _ => EncodeLength.satsub _ _ | .satadd _ _ => EncodeLength.satadd _ _
  | .mulh _ _ => EncodeLength.mulh _ _ | .or _ _ => EncodeLength.or _ _ | .xor _ _ => EncodeLength.xor _ _
  | .and _ _ => EncodeLength.and _ _ | .tst _ _ => EncodeLength.tst _ _ | .subr _ _ => EncodeLength.subr _ _
  | .sub _ _ => EncodeLength.sub _ _ | .add _ _ => EncodeLength.add _ _ | .cmp _ _ => EncodeLength.cmp _ _
  | .movImm5 _ _ => EncodeLength.movImm5 _ _ | .sataddImm5 _ _ => EncodeLength.sataddImm5 _ _
  | .addImm5 _ _ => EncodeLength.addImm5 _ _ | .cmpImm5 _ _ => EncodeLength.cmpImm5 _ _
  | .callt _ => EncodeLength.callt _ | .shrImm5 _ _ => EncodeLength.shrImm5 _ _
  | .sarImm5 _ _ => EncodeLength.sarImm5 _ _ | .shlImm5 _ _ => EncodeLength.shlImm5 _ _
  | .mulhImm5 _ _ => EncodeLength.mulhImm5 _ _ | .jrDisp32 _ => EncodeLength.jrDisp32 _
  | .jarlDisp32 _ _ => EncodeLength.jarlDisp32 _ _ | .sldB _ _ => EncodeLength.sldB _ _
  | .sstB _ _ => EncodeLength.sstB _ _ | .sldH _ _ => EncodeLength.sldH _ _ | .sstH _ _ => EncodeLength.sstH _ _
  | .sldW _ _ => EncodeLength.sldW _ _ | .sstW _ _ => EncodeLength.sstW _ _ | .bcond _ _ => EncodeLength.bcond _ _
  | .addi _ _ _ => EncodeLength.addi _ _ _ | .movImm32 _ _ => EncodeLength.movImm32 _ _
  | .movea _ _ _ => EncodeLength.movea _ _ _ | .movhi _ _ _ => EncodeLength.movhi _ _ _
  | .satsubi _ _ _ => EncodeLength.satsubi _ _ _ | .dispose _ _ => EncodeLength.dispose _ _
  | .disposeJmp _ _ _ => EncodeLength.disposeJmp _ _ _ | .ori _ _ _ => EncodeLength.ori _ _ _
  | .xori _ _ _ => EncodeLength.xori _ _ _ | .andi _ _ _ => EncodeLength.andi _ _ _
  | .mulhi _ _ _ => EncodeLength.mulhi _ _ _ | .jmpDisp32 _ _ => EncodeLength.jmpDisp32 _ _
  | .ldB _ _ _ => EncodeLength.ldB _ _ _ | .ldH _ _ _ => EncodeLength.ldH _ _ _ | .ldW _ _ _ => EncodeLength.ldW _ _ _
  | .stB _ _ _ => EncodeLength.stB _ _ _ | .stH _ _ _ => EncodeLength.stH _ _ _ | .stW _ _ _ => EncodeLength.stW _ _ _
  | .prepare _ _ => EncodeLength.prepare _ _ | .prepareSp _ _ => EncodeLength.prepareSp _ _
  | .prepareImm16 _ _ _ => EncodeLength.prepareImm16 _ _ _ | .prepareImm16Hi _ _ _ => EncodeLength.prepareImm16Hi _ _ _
  | .prepareImm32 _ _ _ => EncodeLength.prepareImm32 _ _ _ | .ldBDisp23 _ _ _ => EncodeLength.ldBDisp23 _ _ _
  | .ldHDisp23 _ _ _ => EncodeLength.ldHDisp23 _ _ _ | .ldWDisp23 _ _ _ => EncodeLength.ldWDisp23 _ _ _
  | .stBDisp23 _ _ _ => EncodeLength.stBDisp23 _ _ _ | .stWDisp23 _ _ _ => EncodeLength.stWDisp23 _ _ _
  | .ldBuDisp23 _ _ _ => EncodeLength.ldBuDisp23 _ _ _ | .ldHuDisp23 _ _ _ => EncodeLength.ldHuDisp23 _ _ _
  | .stHDisp23 _ _ _ => EncodeLength.stHDisp23 _ _ _ | .jrDisp22 _ => EncodeLength.jrDisp22 _
  | .jarlDisp22 _ _ => EncodeLength.jarlDisp22 _ _ | .ldBu _ _ _ => EncodeLength.ldBu _ _ _
  | .set1 _ _ _ => EncodeLength.set1 _ _ _ | .not1 _ _ _ => EncodeLength.not1 _ _ _
  | .clr1 _ _ _ => EncodeLength.clr1 _ _ _ | .tst1 _ _ _ => EncodeLength.tst1 _ _ _
  | .ldHu _ _ _ => EncodeLength.ldHu _ _ _ | .setf _ _ => EncodeLength.setf _ _
  | .rieImm _ _ => EncodeLength.rieImm _ _ | .ldsr _ _ => EncodeLength.ldsr _ _ | .stsr _ _ => EncodeLength.stsr _ _
  | .shr _ _ => EncodeLength.shr _ _ | .shr3 _ _ _ => EncodeLength.shr3 _ _ _ | .sar _ _ => EncodeLength.sar _ _
  | .sar3 _ _ _ => EncodeLength.sar3 _ _ _ | .shl _ _ => EncodeLength.shl _ _ | .shl3 _ _ _ => EncodeLength.shl3 _ _ _
  | .set1Reg _ _ => EncodeLength.set1Reg _ _ | .not1Reg _ _ => EncodeLength.not1Reg _ _
  | .clr1Reg _ _ => EncodeLength.clr1Reg _ _ | .tst1Reg _ _ => EncodeLength.tst1Reg _ _
  | .caxi _ _ _ => EncodeLength.caxi _ _ _ | .trap _ => EncodeLength.trap _ | .halt => EncodeLength.halt
  | .reti => EncodeLength.reti | .ctret => EncodeLength.ctret | .eiret => EncodeLength.eiret
  | .feret => EncodeLength.feret | .di => EncodeLength.di | .ei => EncodeLength.ei
  | .syscall _ => EncodeLength.syscall _ | .sasf _ _ => EncodeLength.sasf _ _ | .mul _ _ _ => EncodeLength.mul _ _ _
  | .mulu _ _ _ => EncodeLength.mulu _ _ _ | .mulImm9 _ _ _ => EncodeLength.mulImm9 _ _ _
  | .muluImm9 _ _ _ => EncodeLength.muluImm9 _ _ _ | .divh3 _ _ _ => EncodeLength.divh3 _ _ _
  | .divhu _ _ _ => EncodeLength.divhu _ _ _ | .div _ _ _ => EncodeLength.div _ _ _
  | .divu _ _ _ => EncodeLength.divu _ _ _ | .divq _ _ _ => EncodeLength.divq _ _ _
  | .divqu _ _ _ => EncodeLength.divqu _ _ _ | .cmovImm5 _ _ _ _ => EncodeLength.cmovImm5 _ _ _ _
  | .cmov _ _ _ _ => EncodeLength.cmov _ _ _ _ | .bsw _ _ => EncodeLength.bsw _ _ | .bsh _ _ => EncodeLength.bsh _ _
  | .hsw _ _ => EncodeLength.hsw _ _ | .hsh _ _ => EncodeLength.hsh _ _ | .sch0r _ _ => EncodeLength.sch0r _ _
  | .sch1r _ _ => EncodeLength.sch1r _ _ | .sch0l _ _ => EncodeLength.sch0l _ _ | .sch1l _ _ => EncodeLength.sch1l _ _
  | .sbf _ _ _ _ => EncodeLength.sbf _ _ _ _ | .satsub3 _ _ _ => EncodeLength.satsub3 _ _ _
  | .adf _ _ _ _ => EncodeLength.adf _ _ _ _ | .satadd3 _ _ _ => EncodeLength.satadd3 _ _ _
  | .mac _ _ _ _ => EncodeLength.mac _ _ _ _ | .macu _ _ _ _ => EncodeLength.macu _ _ _ _

theorem encode_getD_zero (i : Instr) (h : Half) : (encode i).getD 0 h = (encode i).getD 0 0 := by
  cases i <;> rfl

/-- Settles O2: the halfwords of the bytes are those of the encoding, and the length is that of the encoding. -/
theorem decodeEncodeRoundTrip : Obligations.DecodeEncodeRoundTrip := by
  intro i rest wf
  have read := reads i wf (halfAt rest (1 - (encode i).length)) (halfAt rest (2 - (encode i).length))
    (halfAt rest (3 - (encode i).length))
  have size := encodeLength i wf (halfAt rest (1 - (encode i).length))
  have bytes := length_flatMap_halfBytes (encode i)
  unfold decode encodeBytes
  simp only [halfAt_flatMap, encode_getD_zero, size, read, List.length_append, bytes]
  rw [if_neg (by omega), List.drop_left' bytes]

end Sys2Proof.RoundTrip
end

section
/-! # What the decoder accepts is an encoding

The decision tree is followed branch by branch: in each branch the tests passed fix the fields of the halfwords, and the pattern of
the instruction is the halfword with these fields. -/

namespace Sys2Proof.Accepted

open Sys2Proof Sys2Proof.Laws Sys2Proof.RoundTrip

/-! ## A halfword is its fields -/

section

variable {h : Half} {i j k l m : Nat} {a : BitVec i} {b : BitVec j} {c : BitVec k} {d : BitVec l} {e : BitVec m}

theorem cat2_fields (size : i + j = 16) (ha : h.extractLsb' j i = a) (hb : h.extractLsb' 0 j = b) : cat2 a b = h := by
  have whole : h.extractLsb' 0 (i + j) = a ++ b := field_of_parts (s := 0) (by rwa [Nat.zero_add]) hb
  rw [cat2, ← whole]
  apply BitVec.eq_of_getLsbD_eq
  intro x hx
  simp [hx, size]

theorem cat3_fields (size : i + j + k = 16) (ha : h.extractLsb' (k + j) i = a) (hb : h.extractLsb' k j = b)
    (hc : h.extractLsb' 0 k = c) : cat3 a b c = h :=
  cat2_fields size (field_of_parts ha hb) hc

theorem cat4_fields (size : i + j + k + l = 16) (ha : h.extractLsb' (l + k + j) i = a) (hb : h.extractLsb' (l + k) j = b)
    (hc : h.extractLsb' l k = c) (hd : h.extractLsb' 0 l = d) : cat4 a b c d = h :=
  cat3_fields size (field_of_parts ha hb) hc hd

theorem cat5_fields (size : i + j + k + l + m = 16) (ha : h.extractLsb' (m + l + k + j) i = a)
    (hb : h.extractLsb' (m + l + k) j = b) (hc : h.extractLsb' (m + l) k = c) (hd : h.extractLsb' m l = d)
    (he : h.extractLsb' 0 m = e) : cat5 a b c d e = h :=
  cat4_fields size (field_of_parts ha hb) hc hd he

end

section

variable {h : Half}

/-- The major opcode is the fields by which the tree tells it apart. -/
theorem op6_fields {a : BitVec 4} {b : BitVec 2} (op4 : fOp4 h = a) (op2 : fOp2 h = b) : h.extractLsb' 5 6 = a ++ b :=
  field_of_parts (s := 5) (m := 4) (n := 2) op4 op2

/-- hw1 of the formats with reg2, op6 and reg1. -/
theorem opHalf_fields {r R : Reg} {op : BitVec 6} {a : BitVec 4} {b : BitVec 2} (hr : fReg2 h = r) (op4 : fOp4 h = a)
    (op2 : fOp2 h = b) (hR : fReg1 h = R) (hop : op = a ++ b) : opHalf r op R = h :=
  cat3_fields (by omega) hr ((op6_fields op4 op2).trans hop.symm) hR

/-- Fields that are not one of the first values are the last one. -/
theorem eq_three {x : BitVec 2} (h0 : x ≠ 0b00) (h1 : x ≠ 0b01) (h2 : x ≠ 0b10) : x = 0b11 := by
  revert x
  decide

/-- The majors of Formats III and IV are those that no earlier test has taken. -/
theorem eq_short : ∀ x : BitVec 3, ¬(x = 0b000#3 ∨ x = 0b001#3 ∨ x = 0b010#3 ∨ x = 0b110#3 ∨ x = 0b111#3) →
    x = 0b011#3 ∨ x = 0b100#3 ∨ x = 0b101#3 := by
  decide

theorem eq_one {x : BitVec 1} (h : x ≠ 0#1) : x = 1#1 := by
  revert x
  decide

theorem eq_zero {x : BitVec 1} (h : x ≠ 1#1) : x = 0#1 := by
  revert x
  decide

/-- The upper four bits of the major opcode are the three by which the tree begins, and one more. -/
theorem fOp4_of_ne {c : BitVec 3} (op : h.extractLsb' 8 3 = c) (ne : fOp4 h ≠ c ++ 0#1) : fOp4 h = c ++ 1#1 := by
  have parts : fOp4 h = c ++ h.extractLsb' 7 1 := field_of_parts (s := 7) (m := 3) (n := 1) op rfl
  rw [parts] at ne ⊢
  rw [eq_one (x := h.extractLsb' 7 1) fun zero => ne (by rw [zero])]

theorem bit6_of_fOp2 {b : BitVec 2} (op2 : fOp2 h = b) : h.extractLsb' 6 1 = b.extractLsb' 1 1 := by
  rw [← op2]
  exact (extractLsb'_extractLsb' h 5 2 1 1 (by omega)).symm

theorem bit6_of_ne (h0 : fOp2 h ≠ 0b00) (h1 : fOp2 h ≠ 0b01) : h.extractLsb' 6 1 = 1#1 := by
  by_cases h2 : fOp2 h = 0b10
  · exact bit6_of_fOp2 h2
  · exact bit6_of_fOp2 (eq_three h0 h1 h2)

end

/-! ## Branches -/

/-- What the branch answers, if anything, is a well-formed instruction whose encoding begins the halfwords. -/
def Sound (o : Option Instr) (hs : List Half) : Prop := ∀ i, o = some i → i.WellFormed ∧ encode i <+: hs

section

variable {hs : List Half} {i : Instr} {h1 h2 h3 h4 x y z w : Half}

theorem Sound.none : Sound none hs := nofun

theorem Sound.ite {p : Prop} [Decidable p] {a b : Option Instr} (ha : p → Sound a hs) (hb : ¬p → Sound b hs) :
    Sound (if p then a else b) hs := by
  split
  · exact ha ‹_›
  · exact hb ‹_›

theorem Sound.some (wf : i.WellFormed) (pre : encode i <+: hs) : Sound (some i) hs := by
  intro j e
  cases e
  exact ⟨wf, pre⟩

theorem Sound.one (wf : i.WellFormed) (he : encode i = [x]) (e1 : x = h1) : Sound (.some i) (h1 :: hs) := by
  subst e1
  exact .some wf (he ▸ ⟨hs, rfl⟩)

theorem Sound.two (wf : i.WellFormed) (he : encode i = [x, y]) (e1 : x = h1) (e2 : y = h2) :
    Sound (.some i) (h1 :: h2 :: hs) := by
  subst e1 e2
  exact .some wf (he ▸ ⟨hs, rfl⟩)

theorem Sound.three (wf : i.WellFormed) (he : encode i = [x, y, z]) (e1 : x = h1) (e2 : y = h2) (e3 : z = h3) :
    Sound (.some i) (h1 :: h2 :: h3 :: hs) := by
  subst e1 e2 e3
  exact .some wf (he ▸ ⟨hs, rfl⟩)

theorem Sound.four (wf : i.WellFormed) (he : encode i = [x, y, z, w]) (e1 : x = h1) (e2 : y = h2) (e3 : z = h3)
    (e4 : w = h4) : Sound (.some i) (h1 :: h2 :: h3 :: h4 :: hs) := by
  subst e1 e2 e3 e4
  exact .some wf (he ▸ ⟨hs, rfl⟩)

/-- The four values of the lower two bits of the major opcode. -/
theorem Sound.op2 {a b c d : Option Instr} (ha : fOp2 h1 = 0b00 → Sound a hs) (hb : fOp2 h1 = 0b01 → Sound b hs)
    (hc : fOp2 h1 = 0b10 → Sound c hs) (hd : fOp2 h1 = 0b11 → Sound d hs) :
    Sound (if fOp2 h1 = 0b00 then a else if fOp2 h1 = 0b01 then b else if fOp2 h1 = 0b10 then c else d) hs :=
  .ite ha fun n0 => .ite hb fun n1 => .ite hc fun n2 => hd (eq_three n0 n1 n2)

end

/-- A test that fails has failed positively. -/
theorem wf_ne {n : Nat} {r : BitVec n} (ne : r ≠ 0) : (r != 0) = true := bne_iff_ne.mpr ne

/-- Instructions whose first halfword is reg2, op6 and reg1. -/
theorem Sound.op {hs : List Half} {i : Instr} {h : Half} {op : BitVec 6} {a : BitVec 4} {b : BitVec 2} {more : List Half}
    (wf : i.WellFormed) (he : encode i = opHalf (fReg2 h) op (fReg1 h) :: more) (op4 : fOp4 h = a) (hop : op = a ++ b)
    (pre : more <+: hs) (op2 : fOp2 h = b) : Sound (.some i) (h :: hs) := by
  refine .some wf ?_
  rw [he, opHalf_fields rfl op4 op2 rfl hop]
  exact List.cons_prefix_cons.mpr ⟨rfl, pre⟩

/-- Instructions whose first halfword is 00000, op6 and reg1. -/
theorem Sound.opZero {hs : List Half} {i : Instr} {h : Half} {op : BitVec 6} {a : BitVec 4} {b : BitVec 2} {more : List Half}
    (wf : i.WellFormed) (he : encode i = opHalf 0 op (fReg1 h) :: more) (zero : fReg2 h = 0) (op4 : fOp4 h = a)
    (hop : op = a ++ b) (pre : more <+: hs) (op2 : fOp2 h = b) : Sound (.some i) (h :: hs) :=
  .op wf (zero ▸ he) op4 hop pre op2

/-- Instructions whose first halfword is one word. -/
theorem Sound.word {hs : List Half} {i : Instr} {h x : Half} {r R : Reg} {op : BitVec 6} {a : BitVec 4} {b : BitVec 2}
    {more : List Half} (wf : i.WellFormed) (he : encode i = x :: more) (hx : x = opHalf r op R) (zero : fReg2 h = r)
    (hR : fReg1 h = R) (op4 : fOp4 h = a) (hop : op = a ++ b) (pre : more <+: hs) (op2 : fOp2 h = b) :
    Sound (.some i) (h :: hs) := by
  subst zero hR hx
  exact .op wf he op4 hop pre op2

/-! ## Second and third halfwords -/

theorem prefix_one {hs : List Half} {x h : Half} (e : x = h) : [x] <+: h :: hs := ⟨hs, e ▸ rfl⟩

theorem prefix_two {hs : List Half} {x y h g : Half} (ex : x = h) (ey : y = g) : [x, y] <+: h :: g :: hs :=
  ⟨hs, ex ▸ ey ▸ rfl⟩

section

variable {h1 h2 h3 : Half} {hs : List Half}

/-- hw2 with a displacement above bit 16. -/
theorem disp15_fields {b : BitVec 1} (bit : fBit16 h2 = b) : cat2 (fDisp15 h2) b = h2 := cat2_fields (by omega) rfl bit

/-- hw2 and hw3 with disp32. -/
theorem disp31_prefix (bit : fBit16 h2 = 0#1) :
    [cat2 ((fDisp31 h2 h3).extractLsb' 0 15) 0#1, (fDisp31 h2 h3).extractLsb' 15 16] <+: h2 :: h3 :: hs :=
  prefix_two (cat2_fields (by omega) BitVec.extractLsb'_append_eq_right.symm bit) BitVec.extractLsb'_append_eq_left

theorem fList_bit0 (h1 h2 : Half) : (fList h1 h2).extractLsb' 0 1 = h1.extractLsb' 0 1 := BitVec.extractLsb'_append_eq_right

theorem fList_high (h1 h2 : Half) : (fList h1 h2).extractLsb' 1 11 = h2.extractLsb' 5 11 := BitVec.extractLsb'_append_eq_left

/-- hw1 of Format XIII. -/
theorem stackHalf_fields {op : BitVec 5} {a : BitVec 4} {b : BitVec 1} {l : RegList} (zero : fReg2 h1 = 0) (op4 : fOp4 h1 = a)
    (bit6 : h1.extractLsb' 6 1 = b) (hop : op = a ++ b) (bit0 : l.extractLsb' 0 1 = h1.extractLsb' 0 1) :
    stackHalf op (fImm5 h1) l = h1 :=
  cat4_fields (by omega) zero ((field_of_parts (s := 6) (m := 4) (n := 1) op4 bit6).trans hop.symm) rfl bit0.symm

/-- hw2 of Format XIII. -/
theorem listHalf_fields {l : RegList} {low : BitVec 5} (high : l.extractLsb' 1 11 = h2.extractLsb' 5 11) (hlow : fSub5 h2 = low) :
    listHalf l low = h2 :=
  cat2_fields (by omega) high.symm hlow

end

/-! ## The parts of the tree -/

section

variable {hs : List Half} {h1 h2 h3 h4 : Half}

theorem sound_low (op : h1.extractLsb' 8 3 = 0b000#3) : Sound (decodeLow h1) (h1 :: hs) := by
  unfold decodeLow
  refine .ite (fun op4 => .op2 (fun op2 => ?mov) (.op rfl rfl op4 rfl ⟨hs, rfl⟩) (fun op2 => ?divh) fun op2 => ?jmp)
    fun ne => ?four
  case mov =>
    refine .ite (fun r => .op (wf_ne r) rfl op4 rfl ⟨hs, rfl⟩ op2) fun r => ?_
    have zero := Decidable.not_not.mp r
    have control {i : Instr} {x : Half} {R : Reg} (wf : i.WellFormed) (he : encode i = [x]) (hx : x = opHalf 0 0b000000 R)
        (hR : fReg1 h1 = R) : Sound (.some i) (h1 :: hs) := .word wf he hx zero hR op4 rfl ⟨hs, rfl⟩ op2
    exact .ite (control rfl rfl (by decide)) fun _ => .ite (control rfl rfl (by decide)) fun _ =>
      .ite (control rfl rfl (by decide)) fun _ => .ite (control rfl rfl (by decide)) fun _ => .none
  case divh =>
    refine .ite (fun R => .ite (fun zero => ?_) fun r => ?_) fun R => .ite (fun zero => ?_) fun r =>
      .ite (fun top => ?_) fun _ => .none
    · exact .opZero (wf_ne R) rfl zero op4 rfl ⟨hs, rfl⟩ op2
    · exact .op (Bool.and_eq_true_iff.mpr ⟨wf_ne R, wf_ne r⟩) rfl op4 rfl ⟨hs, rfl⟩ op2
    · exact .word rfl rfl (by decide) zero (Decidable.not_not.mp R) op4 rfl ⟨hs, rfl⟩ op2
    · have parts : fReg2 h1 = 0#1 ++ h1.extractLsb' 11 4 := field_of_parts (s := 11) (m := 1) (n := 4) top rfl
      have vector : h1.extractLsb' 11 4 ≠ 0 := fun zero => r (by rw [parts, zero]; rfl)
      have rest : h1.extractLsb' 0 11 = 0b0000#4 ++ 0b10#2 ++ 0b00000#5 :=
        field_of_parts (s := 0) (m := 6) (n := 5) (op6_fields op4 op2) (Decidable.not_not.mp R)
      exact .one (wf_ne vector) rfl (cat3_fields (by omega) top rfl rest)
  case jmp =>
    refine .ite (fun zero => .opZero rfl rfl zero op4 rfl ⟨hs, rfl⟩ op2) fun r => .ite (fun bit => ?_) fun bit => ?_
    · exact .one (wf_ne r) rfl (cat3_fields (by omega) rfl (field_of_parts (s := 4) (m := 6) (n := 1) (op6_fields op4 op2) bit) rfl)
    · exact .one (wf_ne r) rfl
        (cat3_fields (by omega) rfl (field_of_parts (s := 4) (m := 6) (n := 1) (op6_fields op4 op2) (eq_one bit)) rfl)
  case four =>
    have op4 := fOp4_of_ne op ne
    exact .ite
      (fun zero => .op2 (.opZero rfl rfl zero op4 rfl ⟨hs, rfl⟩) (.opZero rfl rfl zero op4 rfl ⟨hs, rfl⟩)
        (.opZero rfl rfl zero op4 rfl ⟨hs, rfl⟩) (.opZero rfl rfl zero op4 rfl ⟨hs, rfl⟩))
      fun r => .op2 (.op (wf_ne r) rfl op4 rfl ⟨hs, rfl⟩) (.op (wf_ne r) rfl op4 rfl ⟨hs, rfl⟩)
        (.op (wf_ne r) rfl op4 rfl ⟨hs, rfl⟩) (.op (wf_ne r) rfl op4 rfl ⟨hs, rfl⟩)

theorem sound_regReg (op : h1.extractLsb' 8 3 = 0b001#3) : Sound (decodeRegReg h1) (h1 :: hs) := by
  unfold decodeRegReg
  refine .ite (fun op4 => ?_) fun ne => ?_
  · exact .op2 (.op rfl rfl op4 rfl ⟨hs, rfl⟩) (.op rfl rfl op4 rfl ⟨hs, rfl⟩) (.op rfl rfl op4 rfl ⟨hs, rfl⟩)
      (.op rfl rfl op4 rfl ⟨hs, rfl⟩)
  · have op4 := fOp4_of_ne op ne
    exact .op2 (.op rfl rfl op4 rfl ⟨hs, rfl⟩) (.op rfl rfl op4 rfl ⟨hs, rfl⟩) (.op rfl rfl op4 rfl ⟨hs, rfl⟩)
      (.op rfl rfl op4 rfl ⟨hs, rfl⟩)

theorem sound_imm5 (op : h1.extractLsb' 8 3 = 0b010#3) : Sound (decodeImm5 h1 h2 h3) (h1 :: h2 :: h3 :: hs) := by
  unfold decodeImm5
  refine .ite (fun op4 => .ite (fun callt => ?callt) fun notCallt => ?imm) fun ne => ?shift
  case callt =>
    obtain ⟨bit6, zero⟩ := callt
    have upper : h1.extractLsb' 6 10 = 0b00000#5 ++ (0b0100#4 ++ 0b0#1) :=
      field_of_parts (s := 6) (m := 5) (n := 5) zero (field_of_parts (s := 6) (m := 4) (n := 1) op4 bit6)
    exact .one rfl rfl (cat2_fields (by omega) upper rfl)
  case imm =>
    have r {b : BitVec 2} (op2 : fOp2 h1 = b) (top : b.extractLsb' 1 1 = 0#1) : fReg2 h1 ≠ 0 :=
      fun zero => notCallt ⟨(bit6_of_fOp2 op2).trans top, zero⟩
    refine .op2 (fun op2 => ?_) (fun op2 => ?_) ?_ ?_
    · exact .op (wf_ne (r op2 (by decide))) rfl op4 rfl ⟨_, rfl⟩ op2
    · exact .op (wf_ne (r op2 (by decide))) rfl op4 rfl ⟨_, rfl⟩ op2
    · exact .op rfl rfl op4 rfl ⟨_, rfl⟩
    · exact .op rfl rfl op4 rfl ⟨_, rfl⟩
  case shift =>
    have op4 := fOp4_of_ne op ne
    refine .op2 (.op rfl rfl op4 rfl ⟨_, rfl⟩) (.op rfl rfl op4 rfl ⟨_, rfl⟩) (.op rfl rfl op4 rfl ⟨_, rfl⟩) fun op2 => ?_
    refine .ite (fun r => .op (wf_ne r) rfl op4 rfl ⟨_, rfl⟩ op2) fun r => .ite (fun _ => .none) fun bit16 => ?_
    have zero := Decidable.not_not.mp r
    refine .ite (fun R => ?_) fun R => ?_
    · exact .word rfl rfl (by decide) zero R op4 rfl (disp31_prefix (eq_zero bit16)) op2
    · exact .opZero (wf_ne R) rfl zero op4 rfl (disp31_prefix (eq_zero bit16)) op2

theorem sound_short (op : h1.extractLsb' 8 3 = 0b011#3 ∨ h1.extractLsb' 8 3 = 0b100#3 ∨ h1.extractLsb' 8 3 = 0b101#3) :
    Sound (decodeShort h1) (h1 :: hs) := by
  unfold decodeShort
  refine .ite (fun op4 => ?_) fun n6 => .ite (fun op4 => ?_) fun n7 => .ite (fun op4 => ?_) fun n8 => .ite (fun op4 => ?_)
    fun n9 => .ite (fun op4 => .ite (fun bit => ?_) fun bit => ?_) fun n10 => ?_
  · exact .one rfl rfl (cat3_fields (by omega) rfl op4 rfl)
  · exact .one rfl rfl (cat3_fields (by omega) rfl op4 rfl)
  · exact .one rfl rfl (cat3_fields (by omega) rfl op4 rfl)
  · exact .one rfl rfl (cat3_fields (by omega) rfl op4 rfl)
  · exact .one rfl rfl (cat4_fields (by omega) rfl op4 rfl bit)
  · exact .one rfl rfl (cat4_fields (by omega) rfl op4 rfl (eq_one bit))
  · have op4 : fOp4 h1 = 0b1011 := by
      rcases op with op | op | op
      · exact absurd (fOp4_of_ne op n6) n7
      · exact absurd (fOp4_of_ne op n8) n9
      · exact fOp4_of_ne op n10
    exact .one rfl rfl (cat4_fields (by omega) BitVec.extractLsb'_append_eq_left.symm op4 BitVec.extractLsb'_append_eq_right.symm
      (condBits_condOf _).symm)

theorem sound_imm16 (op : h1.extractLsb' 8 3 = 0b110#3) : Sound (decodeImm16 h1 h2 h3) (h1 :: h2 :: h3 :: hs) := by
  unfold decodeImm16
  refine .ite (fun op4 => ?_) fun ne => ?_
  · refine .ite (.op rfl rfl op4 rfl ⟨_, rfl⟩) fun n0 => .ite (fun op2 => .ite (fun zero => ?_) fun r => ?_) fun n1 =>
      .ite (fun zero => ?_) fun r => .ite (.op (wf_ne r) rfl op4 rfl ⟨_, rfl⟩) fun n2 => ?_
    · exact .opZero rfl rfl zero op4 rfl (prefix_two BitVec.extractLsb'_append_eq_right BitVec.extractLsb'_append_eq_left) op2
    · exact .op (wf_ne r) rfl op4 rfl ⟨_, rfl⟩ op2
    · have stack := stackHalf_fields zero op4 (bit6_of_ne n0 n1) (op := 0b11001) rfl (fList_bit0 h1 h2)
      refine .ite (fun low => ?_) fun R => ?_
      · exact .two rfl rfl stack (listHalf_fields (fList_high h1 h2) low)
      · exact .two (wf_ne R) rfl stack (listHalf_fields (fList_high h1 h2) rfl)
    · exact .op (wf_ne r) rfl op4 rfl ⟨_, rfl⟩ (eq_three n0 n1 n2)
  · have op4 := fOp4_of_ne op ne
    refine .op2 (.op rfl rfl op4 rfl ⟨_, rfl⟩) (.op rfl rfl op4 rfl ⟨_, rfl⟩) (.op rfl rfl op4 rfl ⟨_, rfl⟩) fun op2 => ?_
    refine .ite (fun r => .op (wf_ne r) rfl op4 rfl ⟨_, rfl⟩ op2) fun r => .ite (fun _ => .none) fun bit16 => ?_
    exact .opZero rfl rfl (Decidable.not_not.mp r) op4 rfl (disp31_prefix (eq_zero bit16)) op2

theorem sound_disp16 (op4 : fOp4 h1 = 0b1110) : Sound (decodeDisp16 h1 h2) (h1 :: h2 :: hs) := by
  unfold decodeDisp16
  refine .op2 (.op rfl rfl op4 rfl ⟨_, rfl⟩) (fun op2 => .ite (fun bit => ?_) fun bit => ?_) (.op rfl rfl op4 rfl ⟨_, rfl⟩)
    fun op2 => .ite (fun bit => ?_) fun bit => ?_
  · exact .op rfl rfl op4 rfl (prefix_one (disp15_fields bit)) op2
  · exact .op rfl rfl op4 rfl (prefix_one (disp15_fields (eq_one bit))) op2
  · exact .op rfl rfl op4 rfl (prefix_one (disp15_fields bit)) op2
  · exact .op rfl rfl op4 rfl (prefix_one (disp15_fields (eq_one bit))) op2

theorem sound_frame (zero : fReg2 h1 = 0) (op4 : fOp4 h1 = 0b1111) (bit6 : h1.extractLsb' 6 1 = 0#1) :
    Sound (decodeFrame h1 h2 h3 h4) (h1 :: h2 :: h3 :: h4 :: hs) := by
  have stack := stackHalf_fields zero op4 bit6 (op := 0b11110) rfl (fList_bit0 h1 h2)
  have list {low : BitVec 5} : fSub5 h2 = low → listHalf (fList h1 h2) low = h2 := listHalf_fields (fList_high h1 h2)
  have op2 {b : BitVec 1} (bit5 : h1.extractLsb' 5 1 = b) : fOp2 h1 = 0#1 ++ b :=
    field_of_parts (s := 5) (m := 1) (n := 1) bit6 bit5
  have byte {low : BitVec 4} (h : h2.extractLsb' 0 4 = low) :
      cat3 (fReg3 h2) ((fDisp23 h2 h3).extractLsb' 0 7) low = h2 :=
    cat3_fields (by omega) rfl BitVec.extractLsb'_append_eq_right.symm h
  have half {low : BitVec 5} (h : fSub5 h2 = low) : cat3 (fReg3 h2) ((fDisp22h h2 h3).extractLsb' 0 6) low = h2 :=
    cat3_fields (by omega) rfl BitVec.extractLsb'_append_eq_right.symm h
  have byteTop : (fDisp23 h2 h3).extractLsb' 7 16 = h3 := BitVec.extractLsb'_append_eq_left
  have halfTop : (fDisp22h h2 h3).extractLsb' 6 16 = h3 := BitVec.extractLsb'_append_eq_left
  unfold decodeFrame
  refine .ite (fun low => ?_) fun _ => .ite (fun low => ?_) fun _ => .ite (fun low => ?_) fun _ => .ite (fun low => ?_) fun _ =>
    .ite (fun low => ?_) fun _ => .ite (fun bit5 => ?signed) fun bit5 => ?unsigned
  · exact .two rfl rfl stack (list low)
  · exact .two rfl rfl stack (list low)
  · exact .three rfl rfl stack (list low) rfl
  · exact .three rfl rfl stack (list low) rfl
  · exact .four rfl rfl stack (list low) BitVec.extractLsb'_append_eq_right BitVec.extractLsb'_append_eq_left
  case signed =>
    refine .ite (fun low => ?_) fun _ => .ite (fun low => ?_) fun _ => .ite (fun low => ?_) fun _ => .ite (fun low => ?_)
      fun _ => .ite (fun low => ?_) fun _ => .none
    · exact .opZero rfl rfl zero op4 rfl (prefix_two (byte low) byteTop) (op2 bit5)
    · exact .opZero rfl rfl zero op4 rfl (prefix_two (byte low) byteTop) (op2 bit5)
    · exact .opZero rfl rfl zero op4 rfl (prefix_two (half low) halfTop) (op2 bit5)
    · exact .opZero rfl rfl zero op4 rfl (prefix_two (half low) halfTop) (op2 bit5)
    · exact .opZero rfl rfl zero op4 rfl (prefix_two (half low) halfTop) (op2 bit5)
  case unsigned =>
    have op2 := op2 (eq_one bit5)
    refine .ite (fun low => ?_) fun _ => .ite (fun low => ?_) fun _ => .ite (fun low => ?_) fun _ => .none
    · exact .opZero rfl rfl zero op4 rfl (prefix_two (byte low) byteTop) op2
    · exact .opZero rfl rfl zero op4 rfl (prefix_two (half low) halfTop) op2
    · exact .opZero rfl rfl zero op4 rfl (prefix_two (half low) halfTop) op2

/-- hw1 of SETF, RIE imm and SASF. -/
theorem condHalf_fields {op : BitVec 7} {bit : BitVec 1} {c : BitVec 4} (op4 : fOp4 h1 = 0b1111) (op2 : fOp2 h1 = 0b11)
    (bit4 : h1.extractLsb' 4 1 = bit) (hop : op = 0b1111#4 ++ 0b11#2 ++ bit) (hc : fCond1 h1 = c) :
    cat3 (fReg2 h1) op c = h1 :=
  cat3_fields (by omega) rfl ((field_of_parts (s := 4) (m := 6) (n := 1) (op6_fields op4 op2) bit4).trans hop.symm) hc

/-- hw2 with reg3, sub6 and sub5. -/
theorem subHalf_fields {sub6 : BitVec 6} {sub5 : BitVec 5} (h6 : fSub6 h2 = sub6) (h5 : fSub5 h2 = sub5) :
    cat3 (fReg3 h2) sub6 sub5 = h2 := cat3_fields (by omega) rfl h6 h5

theorem sound_extLow (op4 : fOp4 h1 = 0b1111) (op2 : fOp2 h1 = 0b11) :
    Sound (decodeExtLow h1 h2) (h1 :: h2 :: hs) := by
  have sub {i : Instr} {sub6 : BitVec 6} {sub5 : BitVec 5} (wf : i.WellFormed)
      (he : encode i = [opHalf (fReg2 h1) 0b111111 (fReg1 h1), cat3 (fReg3 h2) sub6 sub5])
      (h : fSub6 h2 = sub6 ∧ fSub5 h2 = sub5) : Sound (.some i) (h1 :: h2 :: hs) :=
    .op wf he op4 rfl (prefix_one (subHalf_fields h.1 h.2)) op2
  have fixed {i : Instr} {c : Half} (wf : i.WellFormed) (he : encode i = [opHalf (fReg2 h1) 0b111111 (fReg1 h1), c])
      (e : h2 = c) : Sound (.some i) (h1 :: h2 :: hs) := .op wf he op4 rfl (prefix_one e.symm) op2
  have whole {i : Instr} {c : Half} (wf : i.WellFormed) (he : encode i = [0x07E0, c]) (e1 : h1 = 0x07E0) (e : h2 = c) :
      Sound (.some i) (h1 :: h2 :: hs) := .two wf he e1.symm e.symm
  unfold decodeExtLow
  refine .ite (sub rfl rfl) fun _ => .ite (sub rfl rfl) fun _ => .ite (sub rfl rfl) fun _ => .ite (sub rfl rfl) fun _ =>
    .ite (fun call => ?syscall) fun _ => .ite (fun zero => .ite (fun bit4 => ?setf) fun bit4 => ?rie) fun _ => ?fixed
  case syscall =>
    obtain ⟨sub6, sub5, r, top⟩ := call
    exact .two rfl rfl (opHalf_fields r op4 op2 BitVec.extractLsb'_append_eq_right.symm rfl)
      (cat4_fields (by omega) top BitVec.extractLsb'_append_eq_left.symm sub6 sub5)
  case setf => exact .two rfl rfl (condHalf_fields op4 op2 bit4 rfl (condBits_condOf _).symm) zero.symm
  case rie => exact .two rfl rfl (condHalf_fields op4 op2 (eq_one bit4) rfl rfl) zero.symm
  case fixed =>
    refine .ite (fixed rfl rfl) fun _ => .ite (fixed rfl rfl) fun _ => .ite (fixed rfl rfl) fun _ =>
      .ite (fixed rfl rfl) fun _ => .ite (fixed rfl rfl) fun _ => .ite (fixed rfl rfl) fun _ => .ite (fixed rfl rfl) fun _ =>
      .ite (fixed rfl rfl) fun _ => .ite (fixed rfl rfl) fun _ => .ite (fun e => .ite (fun zero => ?trap) fun _ => .none)
      fun _ => .ite (fun e1 => ?whole) fun _ => .ite (fun ei => .two rfl rfl ei.1.symm ei.2.symm) fun _ => .none
    case trap => exact .opZero rfl rfl zero op4 rfl (prefix_one e.symm) op2
    case whole =>
      exact .ite (whole rfl rfl e1) fun _ => .ite (whole rfl rfl e1) fun _ => .ite (whole rfl rfl e1) fun _ =>
        .ite (whole rfl rfl e1) fun _ => .ite (whole rfl rfl e1) fun _ => .ite (whole rfl rfl e1) fun _ => .none

/-- The condition SA is that of the code 1101. -/
theorem condOf_ne_sa {b : BitVec 4} : b ≠ 0xD → (condOf b != .sa) = true := by
  revert b
  decide

/-- hw2 of CMOV, SBF and ADF. -/
theorem midHalf_fields {sub6 : BitVec 6} (h6 : fSub6 h2 = sub6) (bit16 : fBit16 h2 = 0#1) :
    cat4 (fReg3 h2) sub6 (condBits (condOf (fMid4 h2))) 0#1 = h2 :=
  cat4_fields (by omega) rfl h6 (condBits_condOf _).symm bit16

theorem sound_extHigh (op4 : fOp4 h1 = 0b1111) (op2 : fOp2 h1 = 0b11) (bit16 : fBit16 h2 = 0#1) :
    Sound (decodeExtHigh h1 h2) (h1 :: h2 :: hs) := by
  have sub {i : Instr} {sub6 : BitVec 6} {sub5 : BitVec 5} (wf : i.WellFormed)
      (he : encode i = [opHalf (fReg2 h1) 0b111111 (fReg1 h1), cat3 (fReg3 h2) sub6 sub5]) (h6 : fSub6 h2 = sub6)
      (h5 : fSub5 h2 = sub5) : Sound (.some i) (h1 :: h2 :: hs) :=
    .op wf he op4 rfl (prefix_one (subHalf_fields h6 h5)) op2
  have exchange {i : Instr} {sub6 : BitVec 6} {sub5 : BitVec 5} (wf : i.WellFormed)
      (he : encode i = [opHalf (fReg2 h1) 0b111111 0, cat3 (fReg3 h2) sub6 sub5]) (h6 : fSub6 h2 = sub6) (R : fReg1 h1 = 0)
      (h5 : fSub5 h2 = sub5) : Sound (.some i) (h1 :: h2 :: hs) :=
    .two wf he (opHalf_fields rfl op4 op2 R rfl) (subHalf_fields h6 h5)
  unfold decodeExtHigh
  refine .ite (fun e => .ite (fun bit4 => ?sasf) fun _ => .none) fun _ => .ite (fun h6 => ?mul) fun _ => .ite (fun h5 => ?imm9)
    fun _ => .ite (fun h6 => ?divh) fun _ => .ite (fun h6 => ?div) fun _ => .ite (fun h6 => ?divq) fun _ =>
    .ite (fun h6 => ?cmovImm5) fun _ => .ite (fun h6 => ?cmov) fun _ => .ite (fun h6 => ?swap) fun _ =>
    .ite (fun h6 => ?search) fun _ => .ite (fun h6 => ?sub) fun _ => .ite (fun h6 => ?add) fun _ => .ite (fun h6 => ?mac) fun _ =>
    .ite (fun h6 => ?macu) fun _ => .none
  case sasf => exact .two rfl rfl (condHalf_fields op4 op2 bit4 rfl (condBits_condOf _).symm) e.symm
  case mul => exact .ite (sub rfl rfl h6) fun _ => .ite (sub rfl rfl h6) fun _ => .none
  case divh => exact .ite (sub rfl rfl h6) fun _ => .ite (sub rfl rfl h6) fun _ => .none
  case div => exact .ite (sub rfl rfl h6) fun _ => .ite (sub rfl rfl h6) fun _ => .none
  case divq => exact .ite (sub rfl rfl h6) fun _ => .ite (sub rfl rfl h6) fun _ => .none
  case imm9 =>
    have word {low : BitVec 2} (hlow : h2.extractLsb' 0 2 = low) : cat4 (fReg3 h2) 0b01001#5
        ((h2.extractLsb' 2 4 ++ fReg1 h1).extractLsb' 5 4) low = h2 :=
      cat4_fields (by omega) rfl h5 BitVec.extractLsb'_append_eq_left.symm hlow
    have first : opHalf (fReg2 h1) 0b111111 ((h2.extractLsb' 2 4 ++ fReg1 h1).extractLsb' 0 5) = h1 :=
      opHalf_fields rfl op4 op2 BitVec.extractLsb'_append_eq_right.symm rfl
    exact .ite (fun low => .two rfl rfl first (word low)) fun _ => .ite (fun low => .two rfl rfl first (word low)) fun _ => .none
  case cmovImm5 => exact .op rfl rfl op4 rfl (prefix_one (midHalf_fields h6 bit16)) op2
  case cmov => exact .op rfl rfl op4 rfl (prefix_one (midHalf_fields h6 bit16)) op2
  case swap =>
    obtain ⟨h6, R⟩ := h6
    exact .ite (exchange rfl rfl h6 R) fun _ => .ite (exchange rfl rfl h6 R) fun _ => .ite (exchange rfl rfl h6 R) fun _ =>
      .ite (exchange rfl rfl h6 R) fun _ => .none
  case search =>
    obtain ⟨h6, R⟩ := h6
    exact .ite (exchange rfl rfl h6 R) fun _ => .ite (exchange rfl rfl h6 R) fun _ => .ite (exchange rfl rfl h6 R) fun _ =>
      .ite (exchange rfl rfl h6 R) fun _ => .none
  case sub =>
    refine .ite (fun sa => sub rfl rfl h6 ?_) fun other => ?_
    · exact field_of_parts (s := 0) (m := 4) (n := 1) sa bit16
    · exact .op (condOf_ne_sa other) rfl op4 rfl (prefix_one (midHalf_fields h6 bit16)) op2
  case add =>
    refine .ite (fun sa => sub rfl rfl h6 ?_) fun other => ?_
    · exact field_of_parts (s := 0) (m := 4) (n := 1) sa bit16
    · exact .op (condOf_ne_sa other) rfl op4 rfl (prefix_one (midHalf_fields h6 bit16)) op2
  case mac => exact .op rfl rfl op4 rfl (prefix_one (cat5_fields (by omega) rfl h6.2 h6.1 rfl bit16)) op2
  case macu => exact .op rfl rfl op4 rfl (prefix_one (cat5_fields (by omega) rfl h6.2 h6.1 rfl bit16)) op2

theorem sound_long (op4 : fOp4 h1 = 0b1111) : Sound (decodeLong h1 h2 h3 h4) (h1 :: h2 :: h3 :: h4 :: hs) := by
  unfold decodeLong
  refine .ite (fun bit6 => .ite (fun bit16 => ?jump) fun bit16 => .ite (fun zero => ?frame) fun r => ?ldBu) fun bit6 =>
    .ite (fun op2 => ?bits) fun n2 => ?ext
  case jump =>
    have second : cat2 ((fDisp21 h1 h2).extractLsb' 0 15) 0#1 = h2 :=
      cat2_fields (by omega) BitVec.extractLsb'_append_eq_right.symm bit16
    have low : h1.extractLsb' 0 6 = (fDisp21 h1 h2).extractLsb' 15 6 := BitVec.extractLsb'_append_eq_left.symm
    have op5 : h1.extractLsb' 6 5 = 0b1111#4 ++ 0b0#1 := field_of_parts (s := 6) (m := 4) (n := 1) op4 bit6
    refine .ite (fun zero => ?_) fun r => ?_
    · exact .two rfl rfl (cat2_fields (by omega) (field_of_parts (s := 6) (m := 5) (n := 5) zero op5) low) second
    · exact .two (wf_ne r) rfl (cat3_fields (by omega) rfl op5 low) second
  case frame => exact sound_frame zero op4 bit6
  case ldBu =>
    have op5 : h1.extractLsb' 6 5 = 0b1111#4 ++ 0b0#1 := field_of_parts (s := 6) (m := 4) (n := 1) op4 bit6
    exact .two (wf_ne r) rfl (cat4_fields (by omega) rfl op5 BitVec.extractLsb'_append_eq_right.symm rfl)
      (cat2_fields (by omega) BitVec.extractLsb'_append_eq_left.symm (eq_one bit16))
  case bits =>
    have first {top : BitVec 2} (h : h1.extractLsb' 14 2 = top) : cat4 top (h1.extractLsb' 11 3) 0b111110#6 (fReg1 h1) = h1 :=
      cat4_fields (by omega) h rfl (op6_fields op4 op2) rfl
    refine .ite (fun top => ?_) fun n0 => .ite (fun top => ?_) fun n1 => .ite (fun top => ?_) fun n2 => ?_
    · exact .two rfl rfl (first top) rfl
    · exact .two rfl rfl (first top) rfl
    · exact .two rfl rfl (first top) rfl
    · exact .two rfl rfl (first (eq_three n0 n1 n2)) rfl
  case ext =>
    have op2 : fOp2 h1 = 0b11 := by
      refine eq_three (fun op2 => bit6 (bit6_of_fOp2 op2)) (fun op2 => bit6 (bit6_of_fOp2 op2)) n2
    refine .ite (fun bit16 => .ite (fun _ => .none) fun r => ?_) fun bit16 => .ite (fun _ => ?_) fun _ => ?_
    · exact .op (wf_ne r) rfl op4 rfl (prefix_one (disp15_fields bit16)) op2
    · exact sound_extLow op4 op2
    · exact sound_extHigh op4 op2 (eq_zero bit16)

/-- The whole tree. -/
theorem sound_decodeHalfwords : Sound (decodeHalfwords h1 h2 h3 h4) [h1, h2, h3, h4] := by
  unfold decodeHalfwords
  refine .ite sound_low fun n0 => .ite sound_regReg fun n1 => .ite sound_imm5 fun n2 => .ite sound_imm16 fun n6 =>
    .ite (fun op => .ite sound_disp16 fun ne => ?_) fun n7 => ?_
  · exact sound_long (fOp4_of_ne op ne)
  · exact sound_short (eq_short _ (by simp only [n0, n1, n2, n6, n7, or_self, not_false_eq_true]))

end

/-! ## Bytes -/

/-- The bytes of halfword k are bytes 2k and 2k + 1. -/
theorem halfBytes_halfAt (bs : List Byte) (k : Nat) : halfBytes (halfAt bs k) = [bs.getD (2 * k) 0, bs.getD (2 * k + 1) 0] := by
  have low : (halfAt bs k).extractLsb' 0 8 = bs.getD (2 * k) 0 := BitVec.extractLsb'_append_eq_right
  have high : (halfAt bs k).extractLsb' 8 8 = bs.getD (2 * k + 1) 0 := BitVec.extractLsb'_append_eq_left
  rw [halfBytes, low, high]

theorem halfAt_drop (bs : List Byte) (k : Nat) : halfAt (bs.drop 2) k = halfAt bs (k + 1) := by
  simp only [halfAt, List.getD_eq_getElem?_getD, List.getElem?_drop]
  congr 3 <;> omega

/-- The first n halfwords of bytes, when there are so many. -/
theorem flatMap_halfAt (n : Nat) (bs : List Byte) (h : 2 * n ≤ bs.length) :
    ((List.range n).map (halfAt bs)).flatMap halfBytes ++ bs.drop (2 * n) = bs := by
  induction n generalizing bs with
  | zero => rfl
  | succ n ih =>
    obtain ⟨a, b, bs, rfl⟩ : ∃ a b bs', bs = a :: b :: bs' := by
      match bs, h with
      | [], h => simp at h
      | [_], h => simp at h; omega
      | a :: b :: bs, _ => exact ⟨a, b, bs, rfl⟩
    have rest := ih bs (by simp at h; omega)
    have first : halfBytes (halfAt (a :: b :: bs) 0) = [a, b] := halfBytes_halfAt _ 0
    have others : (fun k => halfAt (a :: b :: bs) (k + 1)) = halfAt bs := funext fun k => (halfAt_drop _ k).symm
    rw [List.range_succ_eq_map, List.map_cons, List.map_map, List.flatMap_cons, first]
    have tail := congrArg (fun f => ((List.range n).map f).flatMap halfBytes ++ bs.drop (2 * n)) others
    exact congrArg (a :: b :: ·) (tail.trans rest)

/-- Where a list is the first values of a function, it gives that value or the default. -/
theorem getD_of_eq_map {l : List Half} {f : Nat → Half} (h : l = (List.range l.length).map f) (k : Nat) :
    l.getD k (f k) = f k := by
  by_cases hk : k < l.length
  · rw [h, List.getD_eq_getElem?_getD, List.getElem?_map, List.getElem?_range hk]
    rfl
  · rw [List.getD_eq_getElem?_getD, List.getElem?_eq_none (by omega), Option.getD_none]

/-- An encoding that begins the halfwords of bytes is their first halfwords. -/
theorem encode_eq_halfAt {i : Instr} {bs : List Byte}
    (h : encode i <+: [halfAt bs 0, halfAt bs 1, halfAt bs 2, halfAt bs 3]) :
    encode i = (List.range (encode i).length).map (halfAt bs) := by
  have halves : [halfAt bs 0, halfAt bs 1, halfAt bs 2, halfAt bs 3] = (List.range 4).map (halfAt bs) := rfl
  have short : (encode i).length ≤ 4 := h.length_le
  have taken := List.prefix_iff_eq_take.mp h
  rw [halves, ← List.map_take, List.take_range, Nat.min_eq_left short] at taken
  exact taken

/-- The length by R188 is that of the encoding found. -/
theorem instrBytes_of_prefix {i : Instr} {bs : List Byte} (wf : i.WellFormed)
    (h : encode i = (List.range (encode i).length).map (halfAt bs)) :
    instrBytes (halfAt bs 0) (halfAt bs 1) = 2 * (encode i).length := by
  have at0 : (encode i).getD 0 (halfAt bs 0) = halfAt bs 0 := getD_of_eq_map h 0
  have at1 : (encode i).getD 1 (halfAt bs 1) = halfAt bs 1 := getD_of_eq_map h 1
  have size := encodeLength i wf (halfAt bs 1)
  rwa [at1, ← encode_getD_zero i (halfAt bs 0), at0] at size

/-- Settles O3: the answer of the tree is sound, and the bytes hold its halfwords. -/
theorem decodedBytesAreEncoding : Obligations.DecodedBytesAreEncoding := by
  intro bs i rest h
  unfold decode at h
  simp only at h
  split at h
  · contradiction
  · rename_i long
    split at h
    · rename_i j read
      cases h
      obtain ⟨wf, pre⟩ := sound_decodeHalfwords _ read
      have halves := encode_eq_halfAt pre
      have size := instrBytes_of_prefix wf halves
      have bytes := flatMap_halfAt (encode i).length bs (by omega)
      rw [← halves, ← size] at bytes
      exact ⟨wf, bytes.symm⟩
    · contradiction

end Sys2Proof.Accepted
end
